-- ==== Sys2Proof/Word.lean ====
section
/-! DEFINITION. The machine's words (00_scope.md R9 to R11): 64-bit register values, 8-bit memory cells and the 32-bit words of the interop encoding. -/

namespace Sys2Proof

/-- A 64-bit value (R9): a register, the pc, an address, a counter. -/
abbrev Word := BitVec 64

/-- One cell of the data memory (10_state.md R45). -/
abbrev Byte := BitVec 8

/-- A word of the RV64I interop form (30_encoding.md R134). -/
abbrev InstrWord := BitVec 32

/-- `wrap_64(i)` (R10): an integer modulo 2^64. -/
abbrev wrap64 (i : Int) : Word := BitVec.ofInt 64 i

end Sys2Proof
end

