-- ==== Sys2Proof/Machine/Constants.lean ====
section
/-! DEFINITION. The named constants of 00_scope.md R7, each with the value the source states; they stand here, and not in Config.lean, because the literals are unaudited (93_implementation_defined.md U9) and a later repair may have to mend one in this one place. -/

namespace Sys2Proof

/-- Number of general registers. -/
@[simp] abbrev Const.NREG : Nat := 32
/-- Bytes of a cache block. -/
@[simp] abbrev Const.BLOCK_SIZE : Nat := 64
/-- Address distance between consecutive instruction records. -/
@[simp] abbrev Const.INSTR_STEP : Nat := 4
/-- The register that holds the system-call number. -/
@[simp] abbrev Const.SYSCALL_REG : Nat := 17
/-- System-call number "dump registers and continue". -/
@[simp] abbrev Const.SYSCALL_DUMP : Word := 23
/-- System-call number "exit". -/
@[simp] abbrev Const.SYSCALL_EXIT : Word := 2
/-- Shift-amount bits of the 64-bit shifts. -/
@[simp] abbrev Const.SHAMT64_BITS : Nat := 6
/-- Shift-amount bits of the 32-bit shifts. -/
@[simp] abbrev Const.SHAMT32_BITS : Nat := 5

end Sys2Proof
end

