-- ==== Sys2Proof/Config.lean ====
section
/-! DEFINITION. The parameters of the block (00_scope.md R7): the configuration snapshot of 10_state.md R44 with the OPEN parameter FETCH_MISALIGNED beside it. The named constants of R7 stand in Machine/Constants.lean, and XLEN and COUNTER_WIDTH are the width of `Word`. -/

namespace Sys2Proof

/-- The OPEN parameter FETCH_MISALIGNED (40_dispatch.md R153): what a fetch does at a pc inside the window that is not `INSTR_LOWER + 4k`. -/
inductive FetchMisaligned where
  /-- No check: the record at the boundary below the pc runs. The spec's default. -/
  | truncate
  /-- The fetch raises InstructionFault. -/
  | fault
  deriving DecidableEq, Repr

/-- The configuration snapshot (10_state.md R43, R44), latched at construction and constant for the run. The last field is no field of R44's snapshot: it is the OPEN parameter of R7 and R153, held here because it is a constant of the machine too (DESIGN CHOICE, log 6). -/
structure Config where
  /-- `INSTR_LOWER`: the inclusive lower bound of the instruction window. -/
  instrLower : Word
  /-- `INSTR_UPPER`: the exclusive upper bound of the instruction window and the base of the data window. -/
  instrUpper : Word
  /-- `ENTRY_ADDRESS`: the pc at reset. -/
  entryAddress : Word
  /-- `MEMORY_SZ`: the size of the data memory in bytes, below 2^64. -/
  memorySz : Word
  /-- `CACHE_SETS`. -/
  cacheSets : Nat
  /-- `CACHE_TOTAL_LINES`. -/
  cacheTotalLines : Nat
  /-- `PRINT_INSTRS`, which the block does not interpret. -/
  printInstrs : Bool
  /-- `PRINT_REGS`, which the block does not interpret. -/
  printRegs : Bool
  /-- `PRINT_CACHE`, which the block does not interpret. -/
  printCache : Bool
  /-- `FETCH_MISALIGNED`. -/
  fetchMisaligned : FetchMisaligned
  deriving DecidableEq, Repr

/-- The one configuration check of construction (70_reset_and_hazards.md R501, 60_exceptions.md R417). -/
abbrev Config.Valid (c : Config) : Prop := c.cacheTotalLines = c.cacheSets ∧ 0 < c.cacheSets

/-- The test configuration `CFG` of 95_test_vectors.md, with the print flags off: the configuration `State.reset` is built from (DESIGN CHOICE, log 1). -/
def Config.cfg : Config where
  instrLower := 0x1000
  instrUpper := 0x2000
  entryAddress := 0x1000
  memorySz := 0x1000
  cacheSets := 4
  cacheTotalLines := 4
  printInstrs := false
  printRegs := false
  printCache := false
  fetchMisaligned := .truncate

end Sys2Proof
end

