-- ==== Sys2Proof/Syntax.lean ====
section
/-! DEFINITION. Syntax: the instruction records the block fetches (30_encoding.md R121 to R128) and the instructions they stand for, one constructor of `Instr` for each row of opcode_table.json. -/

namespace Sys2Proof

/-- The five operand formats (R122 to R126). -/
inductive OperandFormat where
  | rrr | rri | ri | ror | none
  deriving DecidableEq, Repr

/-- The three handler groups (R128, 40_dispatch.md R156). -/
inductive HandlerGroup where
  | arithLogical | memory | controlFlow
  deriving DecidableEq, Repr

/-- The operand variant of a record (R121). A register number is any natural number and an immediate any integer: the block checks neither (10_state.md R35, R131). -/
inductive Operands where
  /-- R122: destination, first source, second source. -/
  | rrr (rd rs1 rs2 : Nat)
  /-- R123: two registers, whose roles the opcode fixes, and a signed immediate. -/
  | rri (r1 r2 : Nat) (imm : Int)
  /-- R124: destination and a signed immediate. -/
  | ri (rd : Nat) (imm : Int)
  /-- R125: base, data register, signed byte offset. -/
  | ror (base reg : Nat) (offset : Int)
  /-- R126: no operands. -/
  | noOperands
  deriving DecidableEq, Repr

/-- The format of an operand variant. -/
def Operands.format : Operands → OperandFormat
  | .rrr _ _ _ => .rrr
  | .rri _ _ _ => .rri
  | .ri _ _ => .ri
  | .ror _ _ _ => .ror
  | .noOperands => .none

/-- The closed enumeration of 50 opcode tags (R128). -/
inductive Tag where
  | add | sub | and | or | xor | sll | srl | sra | addi | andi
  | ori | xori | slli | srli | srai | addw | subw | sllw | srlw | sraw
  | addiw | slliw | srliw | sraiw | lui | ecall | lb | lh | lw | ld
  | lbu | lhu | lwu | sb | sh | sw | sd | slt | sltu | slti
  | sltiu | beq | bne | blt | bge | bltu | bgeu | auipc | jal | jalr
  deriving DecidableEq, Repr

/-- The tags in the order of R128's table. -/
def Tag.all : List Tag :=
  [.add, .sub, .and, .or, .xor, .sll, .srl, .sra, .addi, .andi, .ori, .xori, .slli, .srli, .srai, .addw, .subw, .sllw, .srlw, .sraw, .addiw, .slliw, .srliw, .sraiw, .lui, .ecall] ++
  [.lb, .lh, .lw, .ld, .lbu, .lhu, .lwu, .sb, .sh, .sw, .sd] ++
  [.slt, .sltu, .slti, .sltiu, .beq, .bne, .blt, .bge, .bltu, .bgeu, .auipc, .jal, .jalr]

/-- The format column of R128. -/
def Tag.format : Tag → OperandFormat
  | .add | .sub | .and | .or | .xor | .sll | .srl | .sra | .addw => .rrr
  | .subw | .sllw | .srlw | .sraw | .slt | .sltu => .rrr
  | .addi | .andi | .ori | .xori | .slli | .srli | .srai | .addiw | .slliw => .rri
  | .srliw | .sraiw | .slti | .sltiu | .beq | .bne | .blt | .bge | .bltu => .rri
  | .bgeu | .jalr => .rri
  | .lui | .auipc | .jal => .ri
  | .lb | .lh | .lw | .ld | .lbu | .lhu | .lwu | .sb | .sh => .ror
  | .sw | .sd => .ror
  | .ecall => .none

/-- The group column of R128 (with R129 for the set-less-than tags). -/
def Tag.group : Tag → HandlerGroup
  | .add | .sub | .and | .or | .xor | .sll | .srl | .sra | .addi => .arithLogical
  | .andi | .ori | .xori | .slli | .srli | .srai | .addw | .subw | .sllw => .arithLogical
  | .srlw | .sraw | .addiw | .slliw | .srliw | .sraiw | .lui | .ecall => .arithLogical
  | .lb | .lh | .lw | .ld | .lbu | .lhu | .lwu | .sb | .sh => .memory
  | .sw | .sd => .memory
  | .slt | .sltu | .slti | .sltiu | .beq | .bne | .blt | .bge | .bltu => .controlFlow
  | .bgeu | .auipc | .jal | .jalr => .controlFlow

/-- The opcode tag of a record: one of the 50, or any other tag a parser might produce (R133(a)), numbered so that two of them may differ. -/
inductive OpTag where
  | known (t : Tag)
  | other (code : Nat)
  deriving DecidableEq, Repr

/-- An instruction record (R121): an opcode tag and one operand variant, which need not be the one the tag dictates (R127). -/
structure Record where
  op : OpTag
  operands : Operands
  deriving DecidableEq, Repr

/-- The instructions: one constructor for each row of opcode_table.json, its operands in the order of its record's fields. -/
inductive Instr where
  /-- ADD (R202). -/
  | add (rd rs1 rs2 : Nat)
  /-- SUB (R203). -/
  | sub (rd rs1 rs2 : Nat)
  /-- AND (R204). -/
  | and (rd rs1 rs2 : Nat)
  /-- OR (R205). -/
  | or (rd rs1 rs2 : Nat)
  /-- XOR (R206). -/
  | xor (rd rs1 rs2 : Nat)
  /-- SLL (R207). -/
  | sll (rd rs1 rs2 : Nat)
  /-- SRL (R208). -/
  | srl (rd rs1 rs2 : Nat)
  /-- SRA (R209). -/
  | sra (rd rs1 rs2 : Nat)
  /-- ADDI (R210). -/
  | addi (rd rs1 : Nat) (imm : Int)
  /-- ANDI (R211). -/
  | andi (rd rs1 : Nat) (imm : Int)
  /-- ORI (R212). -/
  | ori (rd rs1 : Nat) (imm : Int)
  /-- XORI (R213). -/
  | xori (rd rs1 : Nat) (imm : Int)
  /-- SLLI (R214). -/
  | slli (rd rs1 : Nat) (imm : Int)
  /-- SRLI (R215). -/
  | srli (rd rs1 : Nat) (imm : Int)
  /-- SRAI (R216). -/
  | srai (rd rs1 : Nat) (imm : Int)
  /-- ADDW (R218). -/
  | addw (rd rs1 rs2 : Nat)
  /-- SUBW (R219). -/
  | subw (rd rs1 rs2 : Nat)
  /-- SLLW (R220). -/
  | sllw (rd rs1 rs2 : Nat)
  /-- SRLW (R221). -/
  | srlw (rd rs1 rs2 : Nat)
  /-- SRAW (R222). -/
  | sraw (rd rs1 rs2 : Nat)
  /-- ADDIW (R223). -/
  | addiw (rd rs1 : Nat) (imm : Int)
  /-- SLLIW (R224). -/
  | slliw (rd rs1 : Nat) (imm : Int)
  /-- SRLIW (R225). -/
  | srliw (rd rs1 : Nat) (imm : Int)
  /-- SRAIW (R226). -/
  | sraiw (rd rs1 : Nat) (imm : Int)
  /-- LUI (R227). -/
  | lui (rd : Nat) (imm : Int)
  /-- ECALL (R232). -/
  | ecall
  /-- LB (R262). -/
  | lb (base reg : Nat) (offset : Int)
  /-- LH (R263). -/
  | lh (base reg : Nat) (offset : Int)
  /-- LW (R264). -/
  | lw (base reg : Nat) (offset : Int)
  /-- LD (R265). -/
  | ld (base reg : Nat) (offset : Int)
  /-- LBU (R266). -/
  | lbu (base reg : Nat) (offset : Int)
  /-- LHU (R267). -/
  | lhu (base reg : Nat) (offset : Int)
  /-- LWU (R268). -/
  | lwu (base reg : Nat) (offset : Int)
  /-- SB (R269). -/
  | sb (base reg : Nat) (offset : Int)
  /-- SH (R270). -/
  | sh (base reg : Nat) (offset : Int)
  /-- SW (R271). -/
  | sw (base reg : Nat) (offset : Int)
  /-- SD (R272). -/
  | sd (base reg : Nat) (offset : Int)
  /-- SLT (R302). -/
  | slt (rd rs1 rs2 : Nat)
  /-- SLTU (R303). -/
  | sltu (rd rs1 rs2 : Nat)
  /-- SLTI (R304). -/
  | slti (rd rs1 : Nat) (imm : Int)
  /-- SLTIU (R305). -/
  | sltiu (rd rs1 : Nat) (imm : Int)
  /-- BEQ (R306). -/
  | beq (r1 r2 : Nat) (imm : Int)
  /-- BNE (R307). -/
  | bne (r1 r2 : Nat) (imm : Int)
  /-- BLT (R308). -/
  | blt (r1 r2 : Nat) (imm : Int)
  /-- BGE (R309). -/
  | bge (r1 r2 : Nat) (imm : Int)
  /-- BLTU (R310). -/
  | bltu (r1 r2 : Nat) (imm : Int)
  /-- BGEU (R311). -/
  | bgeu (r1 r2 : Nat) (imm : Int)
  /-- AUIPC (R312). -/
  | auipc (rd : Nat) (imm : Int)
  /-- JAL (R313). -/
  | jal (rd : Nat) (imm : Int)
  /-- JALR (R314). -/
  | jalr (rd base : Nat) (imm : Int)
  deriving DecidableEq, Repr

/-- The opcode tag of an instruction. -/
def Instr.tag : Instr → Tag
  | .add _ _ _ => .add
  | .sub _ _ _ => .sub
  | .and _ _ _ => .and
  | .or _ _ _ => .or
  | .xor _ _ _ => .xor
  | .sll _ _ _ => .sll
  | .srl _ _ _ => .srl
  | .sra _ _ _ => .sra
  | .addi _ _ _ => .addi
  | .andi _ _ _ => .andi
  | .ori _ _ _ => .ori
  | .xori _ _ _ => .xori
  | .slli _ _ _ => .slli
  | .srli _ _ _ => .srli
  | .srai _ _ _ => .srai
  | .addw _ _ _ => .addw
  | .subw _ _ _ => .subw
  | .sllw _ _ _ => .sllw
  | .srlw _ _ _ => .srlw
  | .sraw _ _ _ => .sraw
  | .addiw _ _ _ => .addiw
  | .slliw _ _ _ => .slliw
  | .srliw _ _ _ => .srliw
  | .sraiw _ _ _ => .sraiw
  | .lui _ _ => .lui
  | .ecall => .ecall
  | .lb _ _ _ => .lb
  | .lh _ _ _ => .lh
  | .lw _ _ _ => .lw
  | .ld _ _ _ => .ld
  | .lbu _ _ _ => .lbu
  | .lhu _ _ _ => .lhu
  | .lwu _ _ _ => .lwu
  | .sb _ _ _ => .sb
  | .sh _ _ _ => .sh
  | .sw _ _ _ => .sw
  | .sd _ _ _ => .sd
  | .slt _ _ _ => .slt
  | .sltu _ _ _ => .sltu
  | .slti _ _ _ => .slti
  | .sltiu _ _ _ => .sltiu
  | .beq _ _ _ => .beq
  | .bne _ _ _ => .bne
  | .blt _ _ _ => .blt
  | .bge _ _ _ => .bge
  | .bltu _ _ _ => .bltu
  | .bgeu _ _ _ => .bgeu
  | .auipc _ _ => .auipc
  | .jal _ _ => .jal
  | .jalr _ _ _ => .jalr

/-- The operand variant of an instruction, which is the one its tag dictates (R127). -/
def Instr.operands : Instr → Operands
  | .add rd rs1 rs2 => .rrr rd rs1 rs2
  | .sub rd rs1 rs2 => .rrr rd rs1 rs2
  | .and rd rs1 rs2 => .rrr rd rs1 rs2
  | .or rd rs1 rs2 => .rrr rd rs1 rs2
  | .xor rd rs1 rs2 => .rrr rd rs1 rs2
  | .sll rd rs1 rs2 => .rrr rd rs1 rs2
  | .srl rd rs1 rs2 => .rrr rd rs1 rs2
  | .sra rd rs1 rs2 => .rrr rd rs1 rs2
  | .addi rd rs1 imm => .rri rd rs1 imm
  | .andi rd rs1 imm => .rri rd rs1 imm
  | .ori rd rs1 imm => .rri rd rs1 imm
  | .xori rd rs1 imm => .rri rd rs1 imm
  | .slli rd rs1 imm => .rri rd rs1 imm
  | .srli rd rs1 imm => .rri rd rs1 imm
  | .srai rd rs1 imm => .rri rd rs1 imm
  | .addw rd rs1 rs2 => .rrr rd rs1 rs2
  | .subw rd rs1 rs2 => .rrr rd rs1 rs2
  | .sllw rd rs1 rs2 => .rrr rd rs1 rs2
  | .srlw rd rs1 rs2 => .rrr rd rs1 rs2
  | .sraw rd rs1 rs2 => .rrr rd rs1 rs2
  | .addiw rd rs1 imm => .rri rd rs1 imm
  | .slliw rd rs1 imm => .rri rd rs1 imm
  | .srliw rd rs1 imm => .rri rd rs1 imm
  | .sraiw rd rs1 imm => .rri rd rs1 imm
  | .lui rd imm => .ri rd imm
  | .ecall => .noOperands
  | .lb base reg offset => .ror base reg offset
  | .lh base reg offset => .ror base reg offset
  | .lw base reg offset => .ror base reg offset
  | .ld base reg offset => .ror base reg offset
  | .lbu base reg offset => .ror base reg offset
  | .lhu base reg offset => .ror base reg offset
  | .lwu base reg offset => .ror base reg offset
  | .sb base reg offset => .ror base reg offset
  | .sh base reg offset => .ror base reg offset
  | .sw base reg offset => .ror base reg offset
  | .sd base reg offset => .ror base reg offset
  | .slt rd rs1 rs2 => .rrr rd rs1 rs2
  | .sltu rd rs1 rs2 => .rrr rd rs1 rs2
  | .slti rd rs1 imm => .rri rd rs1 imm
  | .sltiu rd rs1 imm => .rri rd rs1 imm
  | .beq r1 r2 imm => .rri r1 r2 imm
  | .bne r1 r2 imm => .rri r1 r2 imm
  | .blt r1 r2 imm => .rri r1 r2 imm
  | .bge r1 r2 imm => .rri r1 r2 imm
  | .bltu r1 r2 imm => .rri r1 r2 imm
  | .bgeu r1 r2 imm => .rri r1 r2 imm
  | .auipc rd imm => .ri rd imm
  | .jal rd imm => .ri rd imm
  | .jalr rd base imm => .rri rd base imm

/-- The record of an instruction. -/
def Instr.record (i : Instr) : Record := ⟨.known i.tag, i.operands⟩

/-- The group that claims an instruction. -/
def Instr.group (i : Instr) : HandlerGroup := i.tag.group

/-- Why an InstructionFault is raised (60_exceptions.md R401 (a) to (e)). The halted state does not keep it (R400). -/
inductive InstructionFaultCause where
  /-- (a) The pc is outside the instruction window (40_dispatch.md R151). -/
  | outsideWindow
  /-- (b) The pc is not on a record boundary and FETCH_MISALIGNED is `fault` (R153). -/
  | misaligned
  /-- (c) The index is at or beyond the array's end (R154). -/
  | beyondArray
  /-- (d) The tag is none of the 50 (R157). -/
  | unclaimedTag
  /-- (e) The operand variant is not the tag's format (R158). -/
  | wrongVariant
  deriving DecidableEq, Repr

end Sys2Proof
end

