-- ==== Sys2Proof/Machine/State.lean ====
section
/-! DEFINITION. The state of the block (10_state.md: the State tuple, R30 to R53), the reasons a step can stop, and the state after reset. -/

namespace Sys2Proof.Machine

/-- The four exception kinds (60_exceptions.md R400). -/
inductive ExceptionKind where
  | instructionFault | memoryFault | exit | unknownSyscall
  deriving DecidableEq, Repr

/-- The run status (10_state.md R48, 60_exceptions.md R403). -/
inductive Status where
  | running
  | halted (k : ExceptionKind)
  deriving DecidableEq, Repr

/-- What the last step's cache access answered, or that it made none (10_state.md R50, R52). -/
inductive CacheOutcome where
  | none | hit | miss
  deriving DecidableEq, Repr

/-- One line of the cache simulator (10_state.md R46): a valid bit and a tag, which is a full block number. -/
structure CacheLine where
  valid : Bool
  tag : Word
  deriving DecidableEq, Repr

/-- The `trace` port (10_state.md R50, R52): the record the last step executed and its cache outcome (log 8). -/
structure Trace where
  record : Option Record
  cache : CacheOutcome
  deriving DecidableEq, Repr

/-- The register-dump event `Dump(x[0..31], pc)` (10_state.md R51). -/
structure Dump where
  regs : List Word
  pc : Word
  deriving DecidableEq, Repr

/-- The data memory: (internal offset, byte) pairs in one canonical form, see `Memory.wf` (10_state.md R45; log 3, log 14). -/
abbrev Memory := List Host.Cell

/-- The state of the block. -/
structure State where
  /-- `x[1]` to `x[31]`, `x[i]` in cell `i - 1`; `x[0]` is never stored (10_state.md R30, R31; log 9). -/
  x : Vector Word 31
  /-- The program counter (R36). -/
  pc : Word
  /-- The data memory, indexed by internal offset (R45). -/
  mem : Memory
  /-- The cache lines, line `s` being set `s` (R46). -/
  lines : List CacheLine
  /-- Total cache accesses (R46). -/
  accesses : Word
  /-- Total cache misses (R46). -/
  misses : Word
  /-- The exception state machine (R48). -/
  status : Status
  /-- The configuration snapshot, read-only (R43, R44). -/
  cfg : Config
  /-- The instruction array, read-only (R49); `N_INSTR` is its length. -/
  prog : List Record
  /-- What the last step presented on the `trace` port (R50, R52). -/
  trace : Trace
  /-- The event the last step presented on the `dump` port, if it presented one (R51, R52). -/
  dump : Option Dump
  deriving DecidableEq, Repr

/-- Why a step answers no state. -/
inductive Fault where
  /-- The block was halted with this kind before the step: no step is possible (40_dispatch.md R150, R163). `step` alone raises it. Safe: the machine stops where the block does nothing more (log 7). -/
  | halted (k : ExceptionKind)
  deriving DecidableEq, Repr

/-- Why an instruction has no meaning. -/
inductive Refusal where
  /-- An instruction whose arm in `exec` gives no meaning yet. No arm is refused in this model. Safe: nothing is claimed of it. -/
  | notModelled (mnemonic : String)
  deriving DecidableEq, Repr

/-- The outcome of a step. -/
abbrev Outcome := Host.Outcome State Fault Refusal

/-- The state right after construction (R53) from the configuration `CFG`, an empty instruction array, and zero for `REG_INIT`, `MEM_INIT` and the tags. The spec fixes the pc, the valid bits, the counters and the status; the configuration, the array and the three initial contents are the model's choice (DESIGN CHOICE, logs 1 to 5). `construct` takes all of them as arguments. -/
def State.reset : State where
  x := Vector.replicate 31 0
  pc := Config.cfg.entryAddress
  mem := []
  lines := List.replicate Config.cfg.cacheSets ⟨false, 0⟩
  accesses := 0
  misses := 0
  status := .running
  cfg := Config.cfg
  prog := []
  trace := ⟨none, .none⟩
  dump := none

end Sys2Proof.Machine
end

