-- ==== Sys2Proof/Machine/Operands.lean ====
section
/-! DEFINITION. Operand forms: how each use of an immediate becomes a value (30_encoding.md R130), shift amounts (41_arith_logical.md R228), and the extensions of 00_scope.md R10. Register operands go through `State.readReg` and `State.writeReg` in Ops.lean (R132); no other operand form exists. -/

namespace Sys2Proof.Machine

/-- `sext_64` of the low `w` bits of a value (R10). -/
def sextLow (w : Nat) (v : Word) : Word := (v.setWidth w).signExtend 64

/-- `zext_64` of the low `w` bits of a value (R10). -/
def zextLow (w : Nat) (v : Word) : Word := (v.setWidth w).setWidth 64

/-- An arithmetic, logical or compare operand, and a pc-relative or base-relative byte offset: `wrap_64(imm)`. -/
def immWord (imm : Int) : Word := wrap64 imm

/-- A 64-bit shift amount: the low 6 bits of a register or of `wrap_64(imm)`. -/
def shamt64 (v : Word) : Nat := (v.setWidth Const.SHAMT64_BITS).toNat

/-- A 32-bit shift amount: the low 5 bits of a register or of `wrap_64(imm)`. -/
def shamt32 (v : Word) : Nat := (v.setWidth Const.SHAMT32_BITS).toNat

/-- An upper immediate: `wrap_64(imm) << 12` (mod 2^64). -/
def immUpper (imm : Int) : Word := wrap64 imm <<< 12

/-- The W law (41_arith_logical.md R217): a 32-bit result sign-extended to 64 bits. -/
def wResult (r : BitVec 32) : Word := r.signExtend 64

/-- `trunc_32` (R10). -/
def trunc32 (v : Word) : BitVec 32 := v.setWidth 32

end Sys2Proof.Machine
end

