-- ==== Sys2Proof/Machine/Ops.lean ====
section
/-! DEFINITION. The shared operations over registers, memory, the cache simulator and the run status. -/

namespace Sys2Proof.Machine

/-! Registers (10_state.md R31, R32). -/

/-- `x[i]` (R31): 0 for `i = 0`, the stored value for `1 ≤ i ≤ 31`, 0 for `i > 31`. -/
def State.readReg (s : State) (i : Nat) : Word :=
  if h : 1 ≤ i ∧ i ≤ 31 then s.x[i - 1] else 0

/-- `x[i] <- v` (R32): stored for `1 ≤ i ≤ 31`, ignored for `i = 0` and for `i > 31`. -/
def State.writeReg (s : State) (i : Nat) (v : Word) : State :=
  if h : 1 ≤ i ∧ i ≤ 31 then { s with x := s.x.set (i - 1) v } else s

/-- The register file snapshot `x[0..31]` (R50 (a)). -/
def State.regSnapshot (s : State) : List Word := (List.range Const.NREG).map s.readReg

/-! The program counter (10_state.md R36 to R40). -/

/-- `pc <- target` (00_scope.md R12). -/
def State.setPc (s : State) (target : Word) : State := { s with pc := target }

/-- `pc + 4`, modulo 2^64 (R39). -/
def State.pcNext (s : State) : Word := s.pc + BitVec.ofNat 64 Const.INSTR_STEP

/-! The run status. -/

/-- Taking an exception (00_scope.md R14, 60_exceptions.md R403, R407): nothing is saved, no vector is taken, no state is written, the pc stays at the instruction, and the status becomes `Halted(k)`. There is no return from an exception (R408): the block has no such instruction and no transition out of `Halted`. -/
def State.raise (s : State) (k : ExceptionKind) : State := { s with status := .halted k }

/-! The data memory as a list (10_state.md R45). -/

/-- What an unlisted offset reads as (DESIGN CHOICE, log 3). -/
def Memory.unlisted : Byte := 0

/-- The byte at an internal offset. -/
def Memory.get (off : Nat) : Memory → Byte
  | [] => Memory.unlisted
  | (a, b) :: m => if a = off then b else Memory.get off m

/-- A cell at the head of a memory, left out when an unlisted offset reads the same. -/
def Memory.cons (off : Nat) (v : Byte) (m : Memory) : Memory := if v = Memory.unlisted then m else (off, v) :: m

/-- Store one byte at an internal offset, keeping the canonical form. -/
def Memory.set (off : Nat) (v : Byte) : Memory → Memory
  | [] => Memory.cons off v []
  | (a, b) :: m =>
    if off < a then Memory.cons off v ((a, b) :: m)
    else if off = a then Memory.cons off v m
    else (a, b) :: Memory.set off v m

/-- The canonical form: offsets strictly rising from `lo` on, and no entry equal to what an unlisted offset reads as. -/
def Memory.wfFrom (lo : Nat) : Memory → Bool
  | [] => true
  | (a, b) :: m => decide (lo ≤ a) && decide (b ≠ Memory.unlisted) && Memory.wfFrom (a + 1) m

/-- The canonical form of a memory, so that equal memories are equal lists. -/
def Memory.wf (m : Memory) : Bool := Memory.wfFrom 0 m

/-- `n` bytes from an internal offset on, little-endian, zero-extended (20_memory.md R76, R79). -/
def Memory.readLE (m : Memory) (off : Nat) : Nat → Word
  | 0 => 0
  | n + 1 => (m.get off).setWidth 64 ||| (Memory.readLE m (off + 1) n <<< 8)

/-- Store the low `n` bytes of a value, little-endian, from an internal offset on (20_memory.md R77, R79). -/
def Memory.writeLE (m : Memory) (off : Nat) (v : Word) : Nat → Memory
  | 0 => m
  | n + 1 => Memory.writeLE (m.set off (v.setWidth 8)) (off + 1) (v >>> 8) n

/-! Access to the data memory. -/

/-- The access widths (20_memory.md R75): no other width exists. -/
inductive AccessSize where
  | byte | half | word | double
  deriving DecidableEq, Repr

/-- The width in bytes. -/
def AccessSize.bytes : AccessSize → Nat
  | .byte => 1
  | .half => 2
  | .word => 4
  | .double => 8

/-- `get_byte` (20_memory.md R78): the byte at an internal offset, 0 at or beyond the size. -/
def State.getByte (s : State) (off : Nat) : Byte := if off < s.cfg.memorySz.toNat then s.mem.get off else 0

/-- The internal offset of an architectural address (20_memory.md R71). -/
def State.offsetOf (s : State) (ea : Word) : Nat := ea.toNat - s.cfg.instrUpper.toNat

/-- `MemRead(ea, n)` (20_memory.md R76), zero-extended to 64 bits. -/
def State.memRead (s : State) (ea : Word) (z : AccessSize) : Word := s.mem.readLE (s.offsetOf ea) z.bytes

/-- `MemWrite(ea, n, v)` (20_memory.md R77). -/
def State.memWrite (s : State) (ea : Word) (z : AccessSize) (v : Word) : State :=
  { s with mem := s.mem.writeLE (s.offsetOf ea) v z.bytes }

/-- The effective address of a load or store as an exact integer (42_memory_ops.md R260). -/
def State.effectiveAddress (s : State) (base : Nat) (offset : Int) : Int := (s.readReg base).toNat + offset

/-- `CheckData(ea_exact, n)` (20_memory.md R73): the 64-bit address, or none where MemoryFault is raised. -/
def checkData (c : Config) (ea : Int) (n : Nat) : Option Word :=
  if ea < 0 ∨ 2 ^ 64 ≤ ea then none
  else if 2 ^ 64 ≤ ea + n then none
  else if 2 ^ 64 ≤ c.instrUpper.toNat + c.memorySz.toNat then none
  else if ea < c.instrUpper.toNat then none
  else if (c.instrUpper.toNat + c.memorySz.toNat : Int) < ea + n then none
  else some (wrap64 ea)

/-! The cache simulator (20_memory.md R84 to R92). -/

/-- The block number of an address. -/
def blockOf (addr : Word) : Nat := addr.toNat / Const.BLOCK_SIZE

/-- The set of an address: `block mod CACHE_SETS` (R85). -/
def State.setOf (s : State) (addr : Word) : Nat := blockOf addr % s.cfg.cacheSets

/-- A hit: the line is valid and its tag is the full block number (R86). A set without a line, which no constructed state has, misses (log 13). -/
def State.cacheHit (s : State) (addr : Word) : Bool :=
  match s.lines[s.setOf addr]? with
  | some l => l.valid && l.tag == BitVec.ofNat 64 (blockOf addr)
  | none => false

/-- `CacheAccess(addr)` (R84), its outcome presented on the trace port (10_state.md R50). -/
def State.cacheAccess (s : State) (addr : Word) : State :=
  if s.cacheHit addr then
    { s with accesses := s.accesses + 1, trace := { s.trace with cache := .hit } }
  else
    { s with
      misses := s.misses + 1
      lines := s.lines.set (s.setOf addr) ⟨true, BitVec.ofNat 64 (blockOf addr)⟩
      accesses := s.accesses + 1
      trace := { s.trace with cache := .miss } }

/-! The frames that the groups share. -/

/-- The frame of the arithmetic/logical group (41_arith_logical.md R201) and of the set-less-than instructions: one register written, the pc advanced by 4. -/
def regOp (rd : Nat) (v : Word) (s : State) : Outcome := .next ((s.writeReg rd v).setPc s.pcNext)

/-- The common sequence of every load and store (42_memory_ops.md R261). -/
def memoryOp (z : AccessSize) (base : Nat) (offset : Int) (op : Word → State → State) (s : State) : Outcome :=
  match checkData s.cfg (s.effectiveAddress base offset) z.bytes with
  | none => .next (s.raise .memoryFault)
  | some ea => .next ((op ea (s.cacheAccess ea)).setPc s.pcNext)

/-- A load (42_memory_ops.md §2): `MemRead`, the instruction's extension, and the register write, which `x[0]` discards (R273). -/
def loadOp (z : AccessSize) (ext : Word → Word) (base rd : Nat) (offset : Int) (s : State) : Outcome :=
  memoryOp z base offset (fun ea t => t.writeReg rd (ext (t.memRead ea z))) s

/-- A store (42_memory_ops.md §3): the register truncated to the access width. -/
def storeOp (z : AccessSize) (base rs2 : Nat) (offset : Int) (s : State) : Outcome :=
  memoryOp z base offset (fun ea t => t.memWrite ea z (s.readReg rs2)) s

/-- A conditional branch (43_control_flow.md R301, §3): the target when the condition holds, else `pc + 4`. -/
def branchOp (taken : Bool) (imm : Int) (s : State) : Outcome :=
  .next (s.setPc (if taken then s.pc + immWord imm else s.pcNext))

/-- A jump with link (43_control_flow.md R313, R314): the link is `pc + 4`. -/
def linkOp (rd : Nat) (target : Word) (s : State) : Outcome := .next ((s.writeReg rd s.pcNext).setPc target)

end Sys2Proof.Machine
end

