-- ==== Sys2Proof/Machine/Arith.lean ====
section
/-! DEFINITION. The arithmetic/logical group (41_arith_logical.md R200 to R232): one meaning for each instruction. -/

namespace Sys2Proof.Machine

/-- ADD: `x[rs1] + x[rs2]` (mod 2^64) (R202). -/
def execAdd (rd rs1 rs2 : Nat) (s : State) : Outcome :=
  regOp rd (s.readReg rs1 + s.readReg rs2) s

/-- SUB: `x[rs1] − x[rs2]` (mod 2^64) (R203). -/
def execSub (rd rs1 rs2 : Nat) (s : State) : Outcome :=
  regOp rd (s.readReg rs1 - s.readReg rs2) s

/-- AND (R204). -/
def execAnd (rd rs1 rs2 : Nat) (s : State) : Outcome :=
  regOp rd (s.readReg rs1 &&& s.readReg rs2) s

/-- OR (R205). -/
def execOr (rd rs1 rs2 : Nat) (s : State) : Outcome :=
  regOp rd (s.readReg rs1 ||| s.readReg rs2) s

/-- XOR (R206). -/
def execXor (rd rs1 rs2 : Nat) (s : State) : Outcome :=
  regOp rd (s.readReg rs1 ^^^ s.readReg rs2) s

/-- SLL: the amount is `x[rs2][5:0]` (R207). -/
def execSll (rd rs1 rs2 : Nat) (s : State) : Outcome :=
  regOp rd (s.readReg rs1 <<< shamt64 (s.readReg rs2)) s

/-- SRL: zero fill, the amount is `x[rs2][5:0]` (R208). -/
def execSrl (rd rs1 rs2 : Nat) (s : State) : Outcome :=
  regOp rd (s.readReg rs1 >>> shamt64 (s.readReg rs2)) s

/-- SRA: sign fill, the amount is `x[rs2][5:0]` (R209). -/
def execSra (rd rs1 rs2 : Nat) (s : State) : Outcome :=
  regOp rd ((s.readReg rs1).sshiftRight (shamt64 (s.readReg rs2))) s

/-- ADDI: `x[rs1] + wrap_64(imm)` (mod 2^64) (R210). -/
def execAddi (rd rs1 : Nat) (imm : Int) (s : State) : Outcome :=
  regOp rd (s.readReg rs1 + immWord imm) s

/-- ANDI (R211). -/
def execAndi (rd rs1 : Nat) (imm : Int) (s : State) : Outcome :=
  regOp rd (s.readReg rs1 &&& immWord imm) s

/-- ORI (R212). -/
def execOri (rd rs1 : Nat) (imm : Int) (s : State) : Outcome :=
  regOp rd (s.readReg rs1 ||| immWord imm) s

/-- XORI (R213). -/
def execXori (rd rs1 : Nat) (imm : Int) (s : State) : Outcome :=
  regOp rd (s.readReg rs1 ^^^ immWord imm) s

/-- SLLI: the amount is `wrap_64(imm)[5:0]` (R214). -/
def execSlli (rd rs1 : Nat) (imm : Int) (s : State) : Outcome :=
  regOp rd (s.readReg rs1 <<< shamt64 (immWord imm)) s

/-- SRLI: zero fill, the amount is `wrap_64(imm)[5:0]` (R215). -/
def execSrli (rd rs1 : Nat) (imm : Int) (s : State) : Outcome :=
  regOp rd (s.readReg rs1 >>> shamt64 (immWord imm)) s

/-- SRAI: sign fill, the amount is `wrap_64(imm)[5:0]` (R216). -/
def execSrai (rd rs1 : Nat) (imm : Int) (s : State) : Outcome :=
  regOp rd ((s.readReg rs1).sshiftRight (shamt64 (immWord imm))) s

/-- ADDW: the low 32 bits of the sum, sign-extended (R218, R217). -/
def execAddw (rd rs1 rs2 : Nat) (s : State) : Outcome :=
  regOp rd (wResult (trunc32 (s.readReg rs1) + trunc32 (s.readReg rs2))) s

/-- SUBW: the low 32 bits of the difference, sign-extended (R219, R217). -/
def execSubw (rd rs1 rs2 : Nat) (s : State) : Outcome :=
  regOp rd (wResult (trunc32 (s.readReg rs1) - trunc32 (s.readReg rs2))) s

/-- SLLW: the amount is `x[rs2][4:0]` (R220, R217). -/
def execSllw (rd rs1 rs2 : Nat) (s : State) : Outcome :=
  regOp rd (wResult (trunc32 (s.readReg rs1) <<< shamt32 (s.readReg rs2))) s

/-- SRLW: zero fill in 32 bits, then sign-extended (D6) (R221, R217). -/
def execSrlw (rd rs1 rs2 : Nat) (s : State) : Outcome :=
  regOp rd (wResult (trunc32 (s.readReg rs1) >>> shamt32 (s.readReg rs2))) s

/-- SRAW: fill with bit 31 (R222, R217). -/
def execSraw (rd rs1 rs2 : Nat) (s : State) : Outcome :=
  regOp rd (wResult ((trunc32 (s.readReg rs1)).sshiftRight (shamt32 (s.readReg rs2)))) s

/-- ADDIW: the low 32 bits of the sum, sign-extended (R223, R217). -/
def execAddiw (rd rs1 : Nat) (imm : Int) (s : State) : Outcome :=
  regOp rd (wResult (trunc32 (s.readReg rs1) + trunc32 (immWord imm))) s

/-- SLLIW: the amount is `wrap_64(imm)[4:0]` (R224, R217). -/
def execSlliw (rd rs1 : Nat) (imm : Int) (s : State) : Outcome :=
  regOp rd (wResult (trunc32 (s.readReg rs1) <<< shamt32 (immWord imm))) s

/-- SRLIW: zero fill in 32 bits, then sign-extended (D6) (R225, R217). -/
def execSrliw (rd rs1 : Nat) (imm : Int) (s : State) : Outcome :=
  regOp rd (wResult (trunc32 (s.readReg rs1) >>> shamt32 (immWord imm))) s

/-- SRAIW: fill with bit 31 (R226, R217). -/
def execSraiw (rd rs1 : Nat) (imm : Int) (s : State) : Outcome :=
  regOp rd (wResult ((trunc32 (s.readReg rs1)).sshiftRight (shamt32 (immWord imm)))) s

/-- LUI: `wrap_64(imm) << 12` (mod 2^64) (R227). -/
def execLui (rd : Nat) (imm : Int) (s : State) : Outcome :=
  regOp rd (immUpper imm) s

/-- Present `Dump(x[0..31], pc)` (10_state.md R51), with the ECALL's own pc; no other state changes. -/
def State.presentDump (s : State) : State := { s with dump := some ⟨s.regSnapshot, s.pc⟩ }

/-- ECALL (R232): the whole 64-bit value of `x[17]` is the system-call number (R230). -/
def execEcall (s : State) : Outcome :=
  if s.readReg Const.SYSCALL_REG = Const.SYSCALL_DUMP then .next (s.presentDump.setPc s.pcNext)
  else if s.readReg Const.SYSCALL_REG = Const.SYSCALL_EXIT then .next (s.raise .exit)
  else .next (s.raise .unknownSyscall)

end Sys2Proof.Machine
end

