-- ==== Sys2Proof/Machine/Flags.lean ====
section
/-! DEFINITION. The block has no flags, condition codes or predicates (10_state.md R41). What stands in their place is here: the comparisons whose result goes to a general register (43_control_flow.md R302 to R305) or decides the next pc (R306 to R311). -/

namespace Sys2Proof.Machine

/-- `a <s b` (00_scope.md R11). -/
def lessSigned (a b : Word) : Bool := decide (a.toInt < b.toInt)

/-- `a <u b` (R11). -/
def lessUnsigned (a b : Word) : Bool := decide (a.toNat < b.toNat)

/-- The result of a set-less-than: exactly 0 or 1 in all 64 bits. -/
def boolWord (b : Bool) : Word := if b then 1 else 0

end Sys2Proof.Machine
end

