-- ==== Sys2Proof/Machine/ControlFlow.lean ====
section
/-! DEFINITION. The control-flow group (43_control_flow.md R300 to R316): one meaning for each instruction. No instruction here raises an exception; a bad target faults at the next fetch (R301). -/

namespace Sys2Proof.Machine

/-- SLT: signed (R302). -/
def execSlt (rd rs1 rs2 : Nat) (s : State) : Outcome :=
  regOp rd (boolWord (lessSigned (s.readReg rs1) (s.readReg rs2))) s

/-- SLTU: unsigned (R303). -/
def execSltu (rd rs1 rs2 : Nat) (s : State) : Outcome :=
  regOp rd (boolWord (lessUnsigned (s.readReg rs1) (s.readReg rs2))) s

/-- SLTI: signed, against `wrap_64(imm)` (R304). -/
def execSlti (rd rs1 : Nat) (imm : Int) (s : State) : Outcome :=
  regOp rd (boolWord (lessSigned (s.readReg rs1) (immWord imm))) s

/-- SLTIU: unsigned, against `wrap_64(imm)` (R305). -/
def execSltiu (rd rs1 : Nat) (imm : Int) (s : State) : Outcome :=
  regOp rd (boolWord (lessUnsigned (s.readReg rs1) (immWord imm))) s

/-- BEQ (R306). -/
def execBeq (r1 r2 : Nat) (imm : Int) (s : State) : Outcome :=
  branchOp (s.readReg r1 == s.readReg r2) imm s

/-- BNE (R307). -/
def execBne (r1 r2 : Nat) (imm : Int) (s : State) : Outcome :=
  branchOp (s.readReg r1 != s.readReg r2) imm s

/-- BLT: signed (R308). -/
def execBlt (r1 r2 : Nat) (imm : Int) (s : State) : Outcome :=
  branchOp (lessSigned (s.readReg r1) (s.readReg r2)) imm s

/-- BGE: signed (R309). -/
def execBge (r1 r2 : Nat) (imm : Int) (s : State) : Outcome :=
  branchOp (!lessSigned (s.readReg r1) (s.readReg r2)) imm s

/-- BLTU: unsigned (R310). -/
def execBltu (r1 r2 : Nat) (imm : Int) (s : State) : Outcome :=
  branchOp (lessUnsigned (s.readReg r1) (s.readReg r2)) imm s

/-- BGEU: unsigned (R311). -/
def execBgeu (r1 r2 : Nat) (imm : Int) (s : State) : Outcome :=
  branchOp (!lessUnsigned (s.readReg r1) (s.readReg r2)) imm s

/-- AUIPC: `pc + (wrap_64(imm) << 12)` (mod 2^64), the pc its own address (R312). -/
def execAuipc (rd : Nat) (imm : Int) (s : State) : Outcome :=
  regOp rd (s.pc + immUpper imm) s

/-- JAL: the link, and `pc + wrap_64(imm)` (R313). -/
def execJal (rd : Nat) (imm : Int) (s : State) : Outcome :=
  linkOp rd (s.pc + immWord imm) s

/-- JALR: `(x[base] + wrap_64(imm)) & ~1`, the base read before the link is written (R314). -/
def execJalr (rd base : Nat) (imm : Int) (s : State) : Outcome :=
  linkOp rd ((s.readReg base + immWord imm) &&& ~~~1) s

end Sys2Proof.Machine
end

