-- ==== Sys2Proof/Machine/LoadStore.lean ====
section
/-! DEFINITION. The memory group (42_memory_ops.md R260 to R274): one meaning for each load and store, each the common sequence of R261. -/

namespace Sys2Proof.Machine

/-- LB: one byte, sign-extended (R262); `reg` is the destination. -/
def execLb (base reg : Nat) (offset : Int) (s : State) : Outcome :=
  loadOp .byte (sextLow 8) base reg offset s

/-- LH: two bytes, sign-extended (R263); `reg` is the destination. -/
def execLh (base reg : Nat) (offset : Int) (s : State) : Outcome :=
  loadOp .half (sextLow 16) base reg offset s

/-- LW: four bytes, sign-extended (R264); `reg` is the destination. -/
def execLw (base reg : Nat) (offset : Int) (s : State) : Outcome :=
  loadOp .word (sextLow 32) base reg offset s

/-- LD: eight bytes, no extension (R265); `reg` is the destination. -/
def execLd (base reg : Nat) (offset : Int) (s : State) : Outcome :=
  loadOp .double id base reg offset s

/-- LBU: one byte, zero-extended (R266); `reg` is the destination. -/
def execLbu (base reg : Nat) (offset : Int) (s : State) : Outcome :=
  loadOp .byte (zextLow 8) base reg offset s

/-- LHU: two bytes, zero-extended (R267); `reg` is the destination. -/
def execLhu (base reg : Nat) (offset : Int) (s : State) : Outcome :=
  loadOp .half (zextLow 16) base reg offset s

/-- LWU: four bytes, zero-extended (R268); `reg` is the destination. -/
def execLwu (base reg : Nat) (offset : Int) (s : State) : Outcome :=
  loadOp .word (zextLow 32) base reg offset s

/-- SB: the low byte of `x[reg]` (R269). -/
def execSb (base reg : Nat) (offset : Int) (s : State) : Outcome :=
  storeOp .byte base reg offset s

/-- SH: the low two bytes of `x[reg]` (R270). -/
def execSh (base reg : Nat) (offset : Int) (s : State) : Outcome :=
  storeOp .half base reg offset s

/-- SW: the low four bytes of `x[reg]` (R271). -/
def execSw (base reg : Nat) (offset : Int) (s : State) : Outcome :=
  storeOp .word base reg offset s

/-- SD: all eight bytes of `x[reg]` (R272). -/
def execSd (base reg : Nat) (offset : Int) (s : State) : Outcome :=
  storeOp .double base reg offset s

end Sys2Proof.Machine
end

