-- ==== Sys2Proof/Machine/Dispatch.lean ====
section
/-! DEFINITION. exec: one arm for each instruction (40_dispatch.md R156). -/

namespace Sys2Proof.Machine

def exec (i : Instr) (s : State) : Host.Outcome State Fault Refusal :=
  match i with
  -- arithmetic/logical
  | .add rd rs1 rs2 => Sys2Proof.Machine.execAdd rd rs1 rs2 s
  | .sub rd rs1 rs2 => Sys2Proof.Machine.execSub rd rs1 rs2 s
  | .and rd rs1 rs2 => Sys2Proof.Machine.execAnd rd rs1 rs2 s
  | .or rd rs1 rs2 => Sys2Proof.Machine.execOr rd rs1 rs2 s
  | .xor rd rs1 rs2 => Sys2Proof.Machine.execXor rd rs1 rs2 s
  | .sll rd rs1 rs2 => Sys2Proof.Machine.execSll rd rs1 rs2 s
  | .srl rd rs1 rs2 => Sys2Proof.Machine.execSrl rd rs1 rs2 s
  | .sra rd rs1 rs2 => Sys2Proof.Machine.execSra rd rs1 rs2 s
  | .addi rd rs1 imm => Sys2Proof.Machine.execAddi rd rs1 imm s
  | .andi rd rs1 imm => Sys2Proof.Machine.execAndi rd rs1 imm s
  | .ori rd rs1 imm => Sys2Proof.Machine.execOri rd rs1 imm s
  | .xori rd rs1 imm => Sys2Proof.Machine.execXori rd rs1 imm s
  | .slli rd rs1 imm => Sys2Proof.Machine.execSlli rd rs1 imm s
  | .srli rd rs1 imm => Sys2Proof.Machine.execSrli rd rs1 imm s
  | .srai rd rs1 imm => Sys2Proof.Machine.execSrai rd rs1 imm s
  | .addw rd rs1 rs2 => Sys2Proof.Machine.execAddw rd rs1 rs2 s
  | .subw rd rs1 rs2 => Sys2Proof.Machine.execSubw rd rs1 rs2 s
  | .sllw rd rs1 rs2 => Sys2Proof.Machine.execSllw rd rs1 rs2 s
  | .srlw rd rs1 rs2 => Sys2Proof.Machine.execSrlw rd rs1 rs2 s
  | .sraw rd rs1 rs2 => Sys2Proof.Machine.execSraw rd rs1 rs2 s
  | .addiw rd rs1 imm => Sys2Proof.Machine.execAddiw rd rs1 imm s
  | .slliw rd rs1 imm => Sys2Proof.Machine.execSlliw rd rs1 imm s
  | .srliw rd rs1 imm => Sys2Proof.Machine.execSrliw rd rs1 imm s
  | .sraiw rd rs1 imm => Sys2Proof.Machine.execSraiw rd rs1 imm s
  | .lui rd imm => Sys2Proof.Machine.execLui rd imm s
  | .ecall => Sys2Proof.Machine.execEcall s
  -- memory
  | .lb base reg offset => Sys2Proof.Machine.execLb base reg offset s
  | .lh base reg offset => Sys2Proof.Machine.execLh base reg offset s
  | .lw base reg offset => Sys2Proof.Machine.execLw base reg offset s
  | .ld base reg offset => Sys2Proof.Machine.execLd base reg offset s
  | .lbu base reg offset => Sys2Proof.Machine.execLbu base reg offset s
  | .lhu base reg offset => Sys2Proof.Machine.execLhu base reg offset s
  | .lwu base reg offset => Sys2Proof.Machine.execLwu base reg offset s
  | .sb base reg offset => Sys2Proof.Machine.execSb base reg offset s
  | .sh base reg offset => Sys2Proof.Machine.execSh base reg offset s
  | .sw base reg offset => Sys2Proof.Machine.execSw base reg offset s
  | .sd base reg offset => Sys2Proof.Machine.execSd base reg offset s
  -- control flow
  | .slt rd rs1 rs2 => Sys2Proof.Machine.execSlt rd rs1 rs2 s
  | .sltu rd rs1 rs2 => Sys2Proof.Machine.execSltu rd rs1 rs2 s
  | .slti rd rs1 imm => Sys2Proof.Machine.execSlti rd rs1 imm s
  | .sltiu rd rs1 imm => Sys2Proof.Machine.execSltiu rd rs1 imm s
  | .beq r1 r2 imm => Sys2Proof.Machine.execBeq r1 r2 imm s
  | .bne r1 r2 imm => Sys2Proof.Machine.execBne r1 r2 imm s
  | .blt r1 r2 imm => Sys2Proof.Machine.execBlt r1 r2 imm s
  | .bge r1 r2 imm => Sys2Proof.Machine.execBge r1 r2 imm s
  | .bltu r1 r2 imm => Sys2Proof.Machine.execBltu r1 r2 imm s
  | .bgeu r1 r2 imm => Sys2Proof.Machine.execBgeu r1 r2 imm s
  | .auipc rd imm => Sys2Proof.Machine.execAuipc rd imm s
  | .jal rd imm => Sys2Proof.Machine.execJal rd imm s
  | .jalr rd base imm => Sys2Proof.Machine.execJalr rd base imm s

end Sys2Proof.Machine
end

