-- ==== Sys2Proof/WellFormed.lean ====
section
/-! DEFINITION. Well-formed instructions: the operand ranges a parser that follows RV64I produces (30_encoding.md R131; register numbers in [0,31], 10_state.md R35). The block checks none of them and the machine runs every instruction; the ranges are those the word encodings admit, so `encode` is stated for well-formed instructions. -/

namespace Sys2Proof

/-- A register number the parser is expected to supply. -/
def regOk (r : Nat) : Bool := decide (r ≤ 31)

/-- 12-bit signed: arithmetic immediates, SLTI/SLTIU, JALR, loads and stores. -/
def imm12Ok (imm : Int) : Bool := decide (-2048 ≤ imm ∧ imm ≤ 2047)

/-- Even, 13-bit signed: branches. -/
def immBranchOk (imm : Int) : Bool := decide (-4096 ≤ imm ∧ imm ≤ 4094 ∧ imm % 2 = 0)

/-- Even, 21-bit signed: JAL. -/
def immJumpOk (imm : Int) : Bool := decide (-2 ^ 20 ≤ imm ∧ imm ≤ 2 ^ 20 - 2 ∧ imm % 2 = 0)

/-- 20-bit signed: LUI and AUIPC. -/
def imm20Ok (imm : Int) : Bool := decide (-2 ^ 19 ≤ imm ∧ imm ≤ 2 ^ 19 - 1)

/-- 0 to 63: the 64-bit immediate shifts. -/
def shamt6Ok (imm : Int) : Bool := decide (0 ≤ imm ∧ imm ≤ 63)

/-- 0 to 31: the 32-bit immediate shifts. -/
def shamt5Ok (imm : Int) : Bool := decide (0 ≤ imm ∧ imm ≤ 31)

/-- Every operand of the instruction lies in its range. -/
def Instr.wf : Instr → Bool
  | .add a b c | .sub a b c | .and a b c | .or a b c | .xor a b c => regOk a && regOk b && regOk c
  | .sll a b c | .srl a b c | .sra a b c | .addw a b c | .subw a b c => regOk a && regOk b && regOk c
  | .sllw a b c | .srlw a b c | .sraw a b c | .slt a b c | .sltu a b c => regOk a && regOk b && regOk c
  | .addi a b imm | .andi a b imm | .ori a b imm | .xori a b imm | .addiw a b imm => regOk a && regOk b && imm12Ok imm
  | .slti a b imm | .sltiu a b imm | .jalr a b imm => regOk a && regOk b && imm12Ok imm
  | .slli a b imm | .srli a b imm | .srai a b imm => regOk a && regOk b && shamt6Ok imm
  | .slliw a b imm | .srliw a b imm | .sraiw a b imm => regOk a && regOk b && shamt5Ok imm
  | .lui a imm | .auipc a imm => regOk a && imm20Ok imm
  | .jal a imm => regOk a && immJumpOk imm
  | .lb a b imm | .lh a b imm | .lw a b imm | .ld a b imm | .lbu a b imm => regOk a && regOk b && imm12Ok imm
  | .lhu a b imm | .lwu a b imm => regOk a && regOk b && imm12Ok imm
  | .sb a b imm | .sh a b imm | .sw a b imm | .sd a b imm => regOk a && regOk b && imm12Ok imm
  | .beq a b imm | .bne a b imm | .blt a b imm | .bge a b imm | .bltu a b imm => regOk a && regOk b && immBranchOk imm
  | .bgeu a b imm => regOk a && regOk b && immBranchOk imm
  | .ecall => true

end Sys2Proof
end

