-- ==== Sys2Proof/Decode.lean ====
section
/-! DEFINITION. Decoding: RV64I words to instruction records (30_encoding.md R134 to R138) and records to instructions (40_dispatch.md R157, R158), each total and rejecting by name; then the encoder, written from the same table. The block itself fetches records; the word form is the spec's interop form, from general knowledge (PRESUMED, log 10). -/

namespace Sys2Proof

/-- The word types of R138's table (the formats of R134; `load` is the I format read as a load, `fixed` is ECALL's). -/
inductive WordType where
  | r | i | shift64 | shift32 | u | fixed | load | s | b | j
  deriving DecidableEq, Repr

/-- What R138's table gives for a tag: its word type, `match` and `mask`. -/
structure EncodingRow where
  wordType : WordType
  bits : InstrWord
  mask : InstrWord
  deriving DecidableEq, Repr

/-- R138: the opcode map, one row for each tag. -/
def Tag.row : Tag → EncodingRow
  -- Arithmetic/logical group
  | .add => ⟨.r, 0x00000033, 0xfe00707f⟩
  | .sub => ⟨.r, 0x40000033, 0xfe00707f⟩
  | .and => ⟨.r, 0x00007033, 0xfe00707f⟩
  | .or => ⟨.r, 0x00006033, 0xfe00707f⟩
  | .xor => ⟨.r, 0x00004033, 0xfe00707f⟩
  | .sll => ⟨.r, 0x00001033, 0xfe00707f⟩
  | .srl => ⟨.r, 0x00005033, 0xfe00707f⟩
  | .sra => ⟨.r, 0x40005033, 0xfe00707f⟩
  | .addi => ⟨.i, 0x00000013, 0x0000707f⟩
  | .andi => ⟨.i, 0x00007013, 0x0000707f⟩
  | .ori => ⟨.i, 0x00006013, 0x0000707f⟩
  | .xori => ⟨.i, 0x00004013, 0x0000707f⟩
  | .slli => ⟨.shift64, 0x00001013, 0xfc00707f⟩
  | .srli => ⟨.shift64, 0x00005013, 0xfc00707f⟩
  | .srai => ⟨.shift64, 0x40005013, 0xfc00707f⟩
  | .addw => ⟨.r, 0x0000003b, 0xfe00707f⟩
  | .subw => ⟨.r, 0x4000003b, 0xfe00707f⟩
  | .sllw => ⟨.r, 0x0000103b, 0xfe00707f⟩
  | .srlw => ⟨.r, 0x0000503b, 0xfe00707f⟩
  | .sraw => ⟨.r, 0x4000503b, 0xfe00707f⟩
  | .addiw => ⟨.i, 0x0000001b, 0x0000707f⟩
  | .slliw => ⟨.shift32, 0x0000101b, 0xfe00707f⟩
  | .srliw => ⟨.shift32, 0x0000501b, 0xfe00707f⟩
  | .sraiw => ⟨.shift32, 0x4000501b, 0xfe00707f⟩
  | .lui => ⟨.u, 0x00000037, 0x0000007f⟩
  | .ecall => ⟨.fixed, 0x00000073, 0xffffffff⟩
  -- Memory group
  | .lb => ⟨.load, 0x00000003, 0x0000707f⟩
  | .lh => ⟨.load, 0x00001003, 0x0000707f⟩
  | .lw => ⟨.load, 0x00002003, 0x0000707f⟩
  | .ld => ⟨.load, 0x00003003, 0x0000707f⟩
  | .lbu => ⟨.load, 0x00004003, 0x0000707f⟩
  | .lhu => ⟨.load, 0x00005003, 0x0000707f⟩
  | .lwu => ⟨.load, 0x00006003, 0x0000707f⟩
  | .sb => ⟨.s, 0x00000023, 0x0000707f⟩
  | .sh => ⟨.s, 0x00001023, 0x0000707f⟩
  | .sw => ⟨.s, 0x00002023, 0x0000707f⟩
  | .sd => ⟨.s, 0x00003023, 0x0000707f⟩
  -- Control-flow group
  | .slt => ⟨.r, 0x00002033, 0xfe00707f⟩
  | .sltu => ⟨.r, 0x00003033, 0xfe00707f⟩
  | .slti => ⟨.i, 0x00002013, 0x0000707f⟩
  | .sltiu => ⟨.i, 0x00003013, 0x0000707f⟩
  | .beq => ⟨.b, 0x00000063, 0x0000707f⟩
  | .bne => ⟨.b, 0x00001063, 0x0000707f⟩
  | .blt => ⟨.b, 0x00004063, 0x0000707f⟩
  | .bge => ⟨.b, 0x00005063, 0x0000707f⟩
  | .bltu => ⟨.b, 0x00006063, 0x0000707f⟩
  | .bgeu => ⟨.b, 0x00007063, 0x0000707f⟩
  | .auipc => ⟨.u, 0x00000017, 0x0000007f⟩
  | .jal => ⟨.j, 0x0000006f, 0x0000007f⟩
  | .jalr => ⟨.i, 0x00000067, 0x0000707f⟩

/-- R136: a word matches a row when `(w & mask) == match`. -/
def Tag.matchesWord (t : Tag) (w : InstrWord) : Bool := w &&& t.row.mask == t.row.bits

/-! R135: the immediates of a word, assembled into the record's integer. -/

/-- `sint(w[31:20])`. -/
def iImm (w : InstrWord) : Int := (w.extractLsb 31 20).toInt

/-- `sint(w[31:25] ++ w[11:7])`. -/
def sImm (w : InstrWord) : Int := (w.extractLsb 31 25 ++ w.extractLsb 11 7).toInt

/-- `sint(w[31] ++ w[7] ++ w[30:25] ++ w[11:8] ++ 0b0)`. -/
def bImm (w : InstrWord) : Int :=
  (w.extractLsb 31 31 ++ w.extractLsb 7 7 ++ w.extractLsb 30 25 ++ w.extractLsb 11 8 ++ 0#1).toInt

/-- `sint(w[31:12])`. -/
def uImm (w : InstrWord) : Int := (w.extractLsb 31 12).toInt

/-- `sint(w[31] ++ w[19:12] ++ w[20] ++ w[30:21] ++ 0b0)`. -/
def jImm (w : InstrWord) : Int :=
  (w.extractLsb 31 31 ++ w.extractLsb 19 12 ++ w.extractLsb 20 20 ++ w.extractLsb 30 21 ++ 0#1).toInt

/-- `uint(w[25:20])`. -/
def shamt6 (w : InstrWord) : Int := (w.extractLsb 25 20).toNat

/-- `uint(w[24:20])`. -/
def shamt5 (w : InstrWord) : Int := (w.extractLsb 24 20).toNat

/-- The register number in `w[11:7]`. -/
def fieldRd (w : InstrWord) : Nat := (w.extractLsb 11 7).toNat

/-- The register number in `w[19:15]`. -/
def fieldRs1 (w : InstrWord) : Nat := (w.extractLsb 19 15).toNat

/-- The register number in `w[24:20]`. -/
def fieldRs2 (w : InstrWord) : Nat := (w.extractLsb 24 20).toNat

/-- R136: the fields of a word of each type, mapped to the record's operands. -/
def operandsOfWord (w : InstrWord) : WordType → Operands
  | .r => .rrr (fieldRd w) (fieldRs1 w) (fieldRs2 w)
  | .i => .rri (fieldRd w) (fieldRs1 w) (iImm w)
  | .shift64 => .rri (fieldRd w) (fieldRs1 w) (shamt6 w)
  | .shift32 => .rri (fieldRd w) (fieldRs1 w) (shamt5 w)
  | .u => .ri (fieldRd w) (uImm w)
  | .fixed => .noOperands
  | .load => .ror (fieldRs1 w) (fieldRd w) (iImm w)
  | .s => .ror (fieldRs1 w) (fieldRs2 w) (sImm w)
  | .b => .rri (fieldRs1 w) (fieldRs2 w) (bImm w)
  | .j => .ri (fieldRd w) (jImm w)

/-- R136 and R137: the record of any word. A word that matches no row becomes a record with an unclaimed tag, whose fetch raises InstructionFault; the model numbers that tag with the word itself. -/
def recordOfWord (w : InstrWord) : Record :=
  match Tag.all.find? (·.matchesWord w) with
  | some t => ⟨.known t, operandsOfWord w t.row.wordType⟩
  | none => ⟨.other w.toNat, .noOperands⟩

/-! From a record to the instruction it stands for: the tag chooses the format, and a record with another variant has no instruction (R127). -/

/-- An instruction of format RRR. -/
def Operands.asRRR (mk : Nat → Nat → Nat → Instr) : Operands → Option Instr
  | .rrr rd rs1 rs2 => some (mk rd rs1 rs2)
  | .rri _ _ _ | .ri _ _ | .ror _ _ _ | .noOperands => none

/-- An instruction of format RRI. -/
def Operands.asRRI (mk : Nat → Nat → Int → Instr) : Operands → Option Instr
  | .rri r1 r2 imm => some (mk r1 r2 imm)
  | .rrr _ _ _ | .ri _ _ | .ror _ _ _ | .noOperands => none

/-- An instruction of format RI. -/
def Operands.asRI (mk : Nat → Int → Instr) : Operands → Option Instr
  | .ri rd imm => some (mk rd imm)
  | .rrr _ _ _ | .rri _ _ _ | .ror _ _ _ | .noOperands => none

/-- An instruction of format ROR. -/
def Operands.asROR (mk : Nat → Nat → Int → Instr) : Operands → Option Instr
  | .ror base reg offset => some (mk base reg offset)
  | .rrr _ _ _ | .rri _ _ _ | .ri _ _ | .noOperands => none

/-- An instruction of format NONE. -/
def Operands.asNone (mk : Instr) : Operands → Option Instr
  | .noOperands => some mk
  | .rrr _ _ _ | .rri _ _ _ | .ri _ _ | .ror _ _ _ => none

/-- The instruction with this tag and these operands, if the variant is the tag's format. -/
def Tag.instr? (o : Operands) : Tag → Option Instr
  | .add => o.asRRR .add
  | .sub => o.asRRR .sub
  | .and => o.asRRR .and
  | .or => o.asRRR .or
  | .xor => o.asRRR .xor
  | .sll => o.asRRR .sll
  | .srl => o.asRRR .srl
  | .sra => o.asRRR .sra
  | .addi => o.asRRI .addi
  | .andi => o.asRRI .andi
  | .ori => o.asRRI .ori
  | .xori => o.asRRI .xori
  | .slli => o.asRRI .slli
  | .srli => o.asRRI .srli
  | .srai => o.asRRI .srai
  | .addw => o.asRRR .addw
  | .subw => o.asRRR .subw
  | .sllw => o.asRRR .sllw
  | .srlw => o.asRRR .srlw
  | .sraw => o.asRRR .sraw
  | .addiw => o.asRRI .addiw
  | .slliw => o.asRRI .slliw
  | .srliw => o.asRRI .srliw
  | .sraiw => o.asRRI .sraiw
  | .lui => o.asRI .lui
  | .ecall => o.asNone .ecall
  | .lb => o.asROR .lb
  | .lh => o.asROR .lh
  | .lw => o.asROR .lw
  | .ld => o.asROR .ld
  | .lbu => o.asROR .lbu
  | .lhu => o.asROR .lhu
  | .lwu => o.asROR .lwu
  | .sb => o.asROR .sb
  | .sh => o.asROR .sh
  | .sw => o.asROR .sw
  | .sd => o.asROR .sd
  | .slt => o.asRRR .slt
  | .sltu => o.asRRR .sltu
  | .slti => o.asRRI .slti
  | .sltiu => o.asRRI .sltiu
  | .beq => o.asRRI .beq
  | .bne => o.asRRI .bne
  | .blt => o.asRRI .blt
  | .bge => o.asRRI .bge
  | .bltu => o.asRRI .bltu
  | .bgeu => o.asRRI .bgeu
  | .auipc => o.asRI .auipc
  | .jal => o.asRI .jal
  | .jalr => o.asRRI .jalr

/-- Dispatch's two checks of a record, in R150's order: the tag must be one of the 50 (R157), and the variant must be its format (R158). -/
def Record.instr (r : Record) : Except InstructionFaultCause Instr :=
  match r.op with
  | .other _ => .error .unclaimedTag
  | .known t =>
    match t.instr? r.operands with
    | some i => .ok i
    | none => .error .wrongVariant

/-- The instruction a word stands for, or the name of its rejection. -/
def decodeWord (w : InstrWord) : Except InstructionFaultCause Instr := (recordOfWord w).instr

/-- The word of `nbits` bits that a row of opcode_table.json gives, every bit above them 0. -/
def tableWord (nbits w : Nat) : InstrWord := BitVec.ofNat 32 (w % 2 ^ nbits)

/-- The instruction the decoder reads from an instruction whose bits, numbered as opcode_table.json numbers them, are `w`. -/
def decodeTableWord (nbits w : Nat) : Option Instr := (decodeWord (tableWord nbits w)).toOption

/-! The encoder, from R134's formats and R138's `match` column. -/

/-- The operand fields of a word, in R134's places and zero elsewhere. A variant that is not the word type's has no fields. -/
def fieldsWord : WordType → Operands → InstrWord
  | .r, .rrr rd rs1 rs2 => 0#7 ++ BitVec.ofNat 5 rs2 ++ BitVec.ofNat 5 rs1 ++ 0#3 ++ BitVec.ofNat 5 rd ++ 0#7
  | .i, .rri rd rs1 imm => BitVec.ofInt 12 imm ++ BitVec.ofNat 5 rs1 ++ 0#3 ++ BitVec.ofNat 5 rd ++ 0#7
  | .shift64, .rri rd rs1 imm => 0#6 ++ BitVec.ofInt 6 imm ++ BitVec.ofNat 5 rs1 ++ 0#3 ++ BitVec.ofNat 5 rd ++ 0#7
  | .shift32, .rri rd rs1 imm => 0#7 ++ BitVec.ofInt 5 imm ++ BitVec.ofNat 5 rs1 ++ 0#3 ++ BitVec.ofNat 5 rd ++ 0#7
  | .u, .ri rd imm => BitVec.ofInt 20 imm ++ BitVec.ofNat 5 rd ++ 0#7
  | .load, .ror base rd offset => BitVec.ofInt 12 offset ++ BitVec.ofNat 5 base ++ 0#3 ++ BitVec.ofNat 5 rd ++ 0#7
  | .s, .ror base rs2 offset =>
    let v := BitVec.ofInt 12 offset
    v.extractLsb 11 5 ++ BitVec.ofNat 5 rs2 ++ BitVec.ofNat 5 base ++ 0#3 ++ v.extractLsb 4 0 ++ 0#7
  | .b, .rri r1 r2 imm =>
    let v := BitVec.ofInt 13 imm
    v.extractLsb 12 12 ++ v.extractLsb 10 5 ++ BitVec.ofNat 5 r2 ++ BitVec.ofNat 5 r1 ++ 0#3 ++
      v.extractLsb 4 1 ++ v.extractLsb 11 11 ++ 0#7
  | .j, .ri rd imm =>
    let v := BitVec.ofInt 21 imm
    v.extractLsb 20 20 ++ v.extractLsb 10 1 ++ v.extractLsb 11 11 ++ v.extractLsb 19 12 ++ BitVec.ofNat 5 rd ++ 0#7
  | _, _ => 0

/-- The word of a well-formed instruction: its row's `match` with the operand fields. -/
def encode (i : Instr) : InstrWord := i.tag.row.bits ||| fieldsWord i.tag.row.wordType i.operands

end Sys2Proof
end

