-- ==== Sys2Proof/Machine/Fetch.lean ====
section
/-! DEFINITION. Fetch and the two checks of dispatch (40_dispatch.md R150 to R158), the per-step output ports (10_state.md R50 to R52), and the load of a record where the next fetch reads. -/

namespace Sys2Proof.Machine

/-- `pc - INSTR_LOWER`, used where the window check has passed (R152). -/
def State.fetchDistance (s : State) : Nat := s.pc.toNat - s.cfg.instrLower.toNat

/-- The instruction index `(pc - INSTR_LOWER) // 4` (R152). -/
def State.fetchIndex (s : State) : Nat := s.fetchDistance / Const.INSTR_STEP

/-- The instruction window check (R151), unsigned. -/
def State.pcInWindow (s : State) : Bool :=
  decide (s.cfg.instrLower.toNat ≤ s.pc.toNat ∧ s.pc.toNat < s.cfg.instrUpper.toNat)

/-- The pc is not `INSTR_LOWER + 4k` and FETCH_MISALIGNED makes that a fault (R153). -/
def State.pcMisaligned (s : State) : Bool :=
  decide (s.fetchDistance % Const.INSTR_STEP ≠ 0 ∧ s.cfg.fetchMisaligned = .fault)

/-- Fetch (R151 to R155): the record at the pc, or why InstructionFault is raised, the first failing check deciding (60_exceptions.md R406). -/
def fetch (s : State) : Except InstructionFaultCause Record :=
  if !s.pcInWindow then .error .outsideWindow
  else if s.pcMisaligned then .error .misaligned
  else
    match s.prog[s.fetchIndex]? with
    | none => .error .beyondArray
    | some r => .ok r

/-- Fetch, then the checks of the record (R157, R158): the instruction this step executes, or why InstructionFault is raised. -/
def fetchInstr (s : State) : Except InstructionFaultCause Instr :=
  match fetch s with
  | .error c => .error c
  | .ok r => r.instr

/-- A step's output ports before its instruction runs: the record it executes, no cache outcome and no dump yet (10_state.md R50, R52; log 8). -/
def State.present (s : State) (r : Option Record) : State := { s with trace := ⟨r, .none⟩, dump := none }

/-- The array with a record at index `k`, padded with records of an unclaimed tag where it was shorter. -/
def putRecord (prog : List Record) (k : Nat) (r : Record) : List Record :=
  prog.take k ++ List.replicate (k - prog.length) ⟨.other 0, .noOperands⟩ ++ r :: prog.drop (k + 1)

/-- A running state whose pc a fetch accepts, changing nothing where the pc already is one: the pc moves to the window's start, and an empty window is opened at address 0. -/
def State.fetchable (s : State) : State :=
  if s.pcInWindow && !s.pcMisaligned then { s with status := .running }
  else if s.cfg.instrLower.toNat < s.cfg.instrUpper.toNat then
    { s with status := .running, pc := s.cfg.instrLower }
  else
    { s with
      status := .running
      pc := 0
      cfg := { s.cfg with
        instrLower := 0
        instrUpper := if s.cfg.instrUpper = 0 then BitVec.ofNat 64 Const.INSTR_STEP else s.cfg.instrUpper } }

/-- The state with a record where its next fetch reads: the load of a program from outside the machine (10_state.md R49; log 5). -/
def State.placeRecord (s : State) (r : Record) : State :=
  let t := s.fetchable
  { t with prog := putRecord t.prog t.fetchIndex r }

end Sys2Proof.Machine
end

