-- ==== Sys2Proof/Machine/Step.lean ====
section
/-! DEFINITION. One step (40_dispatch.md R150). -/

namespace Sys2Proof.Machine

/-- One step (R150): possible only while the status is Running (R163); a fetch or a record that is not executable raises InstructionFault; otherwise the instruction at the pc runs. -/
def step (s : State) : Host.Outcome State Fault Refusal :=
  match s.status with
  | .halted k => .fault (.halted k)
  | .running =>
    match fetchInstr s with
    | .error _ => .next ((s.present none).raise .instructionFault)
    | .ok i => exec i (s.present (some i.record))

/-- The state with the instruction of a table word stored where the next step fetches it (log 5). -/
def State.withFetchWord (s : State) (nbits w : Nat) : State := s.placeRecord (recordOfWord (tableWord nbits w))

end Sys2Proof.Machine
end

