-- ==== Sys2Proof/Machine/Construct.lean ====
section
/-! DEFINITION. Reset is construction (70_reset_and_hazards.md R500 to R505). The OPEN parameters REG_INIT and MEM_INIT, and the unspecified tags, are arguments. -/

namespace Sys2Proof.Machine

/-- The outcome of construction that is no state (60_exceptions.md R417): no exception kind and no status code. -/
inductive ConfigError where
  | configError
  deriving DecidableEq, Repr

/-- The data memory at reset: `mem[k] := MEM_INIT(k)` for `k < MEMORY_SZ` (R504), in canonical form. -/
def initialMemory (size : Nat) (memInit : Nat → Byte) : Memory :=
  (List.range size).filterMap fun k => if memInit k = Memory.unlisted then none else some (k, memInit k)

/-- The cache lines at reset: every line invalid, its tag unspecified (R503). -/
def initialLines (sets : Nat) (tagInit : Nat → Word) : List CacheLine :=
  (List.range sets).map fun k => ⟨false, tagInit k⟩

/-- The registers at reset: `x[i] := REG_INIT(i)` for i in 1..31 (R504). -/
def initialRegs (regInit : Nat → Word) : Vector Word 31 :=
  ⟨((List.range 31).map fun k => regInit (k + 1)).toArray, by simp⟩

/-- The state after a successful construction (10_state.md R53). -/
def constructed (cfg : Config) (prog : List Record) (regInit : Nat → Word) (memInit : Nat → Byte) (tagInit : Nat → Word) : State where
  x := initialRegs regInit
  pc := cfg.entryAddress
  mem := initialMemory cfg.memorySz.toNat memInit
  lines := initialLines cfg.cacheSets tagInit
  accesses := 0
  misses := 0
  status := .running
  cfg := cfg
  prog := prog
  trace := ⟨none, .none⟩
  dump := none

/-- Construction (R500, R501): ConfigError where the cache geometry is not valid, and no state then exists. No other field is checked. -/
def construct (cfg : Config) (prog : List Record) (regInit : Nat → Word) (memInit : Nat → Byte) (tagInit : Nat → Word) : Except ConfigError State :=
  if cfg.Valid then .ok (constructed cfg prog regInit memInit tagInit) else .error .configError

end Sys2Proof.Machine
end

