-- ==== Sys2Proof/Machine/Handlers.lean ====
section
/-! DEFINITION. Dispatch as the spec words it (40_dispatch.md R150, R156, R159): each group is offered the instruction in a fixed order and answers "handled", "not mine" or an exception, and the result is retired. `exec` reaches the same state directly; that the two agree is a statement of Obligations.lean. -/

namespace Sys2Proof.Machine

/-- The three outcomes of offering an instruction to a group (R156). -/
inductive HandlerOutcome where
  | handled (t : State)
  | notMine
  | exception (k : ExceptionKind)
  deriving DecidableEq, Repr

/-- The order in which the groups are offered an instruction. -/
def groupOrder : List HandlerGroup := [.arithLogical, .memory, .controlFlow]

/-- The answer of a group, offered an instruction in a running state: the groups are the three columns of 30_encoding.md R128, and a meaning that leaves the block halted signals that exception. -/
def offer (g : HandlerGroup) (i : Instr) (s : State) : HandlerOutcome :=
  if i.group = g then
    match exec i s with
    | .next t =>
      match t.status with
      | .running => .handled t
      | .halted k => .exception k
    | .fault _ | .refused _ => .notMine
  else .notMine

/-- Offer the instruction to the groups in turn and retire the first answer that is not "not mine" (R159): a handled state becomes the block's state, an exception leaves the state before the step with the status halted, and an instruction that no group claims raises InstructionFault (R157). -/
def dispatch (i : Instr) (s : State) : List HandlerGroup → State
  | [] => s.raise .instructionFault
  | g :: gs =>
    match offer g i s with
    | .handled t => t
    | .exception k => s.raise k
    | .notMine => dispatch i s gs

end Sys2Proof.Machine
end

