-- ==== Sys2Proof/Safety.lean ====
section
/-! DEFINITION. What counts as a good access, a good state and a good end of a run: the invariant that construction establishes and every step keeps, and the split of the exception kinds into errors and the normal termination. -/

namespace Sys2Proof.Machine

/-- Each valid line holds the number of a 64-byte block of the 64-bit address space, and stands in that block's set (20_memory.md R84, R86; 10_state.md R46). -/
def State.LinesPlaced (s : State) : Prop :=
  ∀ k l, s.lines[k]? = some l → l.valid = true → l.tag.toNat % s.cfg.cacheSets = k ∧ l.tag.toNat < 2 ^ 58

/-- What every state of a run meets: a configuration that construction accepts, one line for each set, memory in canonical form and inside its size, and the valid lines in their places. -/
structure State.Inv (s : State) : Prop where
  cfgValid : s.cfg.Valid
  linesLength : s.lines.length = s.cfg.cacheSets
  memCanonical : s.mem.wf = true
  memInSize : ∀ c ∈ s.mem, c.1 < s.cfg.memorySz.toNat
  linesPlaced : s.LinesPlaced

/-- An access of `n` bytes at the exact address `ea` is one the block performs: none of the five tests of `CheckData` raises MemoryFault (20_memory.md R73, 60_exceptions.md R402). -/
def InDataWindow (c : Config) (ea : Int) (n : Nat) : Prop :=
  0 ≤ ea ∧ ea + n < 2 ^ 64 ∧ c.instrUpper.toNat + c.memorySz.toNat < 2 ^ 64 ∧ (c.instrUpper.toNat : Int) ≤ ea ∧
    ea + n ≤ (c.instrUpper.toNat + c.memorySz.toNat : Int)

/-- The error kinds; Exit is the normal termination (60_exceptions.md R400, R404; 40_dispatch.md R164). -/
def ExceptionKind.isError : ExceptionKind → Bool
  | .instructionFault | .memoryFault | .unknownSyscall => true
  | .exit => false

/-- A state that is running, or has ended normally. -/
def State.Good (s : State) : Prop := ∀ k, s.status = .halted k → k.isError = false

end Sys2Proof.Machine
end

