-- ==== Sys2Proof/Certificates/Slice0/Obligations.lean ====
section
/-! DEFINITION. The statements for the provers. The words they are written in come first: what an instruction leaves unchanged, its operands as mathematics, and the reading of bytes; then one definition for each statement. -/

namespace Sys2Proof.Claims

open Sys2Proof.Machine

/-! Frames. -/

/-- Every register reads as before but `rd`, which reads `v`; a `rd` of 0 or above 31 is no register that holds a value, so nothing is written (10_state.md R31, R32). -/
def RegsExcept (s t : State) (rd : Nat) (v : Word) : Prop :=
  ∀ k, t.readReg k = if k = rd ∧ 1 ≤ k ∧ k ≤ 31 then v else s.readReg k

/-- Every register reads as before. -/
def SameRegs (s t : State) : Prop := ∀ k, t.readReg k = s.readReg k

/-- Every byte of the data memory reads as before. -/
def SameMemory (s t : State) : Prop := t.mem = s.mem ∧ ∀ off, t.getByte off = s.getByte off

/-- The cache lines and both counters are as before. -/
def SameCache (s t : State) : Prop := t.lines = s.lines ∧ t.accesses = s.accesses ∧ t.misses = s.misses

/-- The status, the configuration and the instruction array are as before. -/
def SameControl (s t : State) : Prop := t.status = s.status ∧ t.cfg = s.cfg ∧ t.prog = s.prog

/-- Both per-step ports are as before. -/
def SamePorts (s t : State) : Prop := t.trace = s.trace ∧ t.dump = s.dump

/-- The pc is `pc + 4` (modulo 2^64). -/
def PcAdvances (s t : State) : Prop := t.pc = wrap64 (s.pc.toNat + 4)

/-- One register written, the pc set, and nothing else. -/
def Writes (s t : State) (rd : Nat) (v target : Word) : Prop :=
  RegsExcept s t rd v ∧ t.pc = target ∧ SameMemory s t ∧ SameCache s t ∧ SameControl s t ∧ SamePorts s t

/-- One register written, the pc advanced by 4, and nothing else. -/
def WritesReg (s t : State) (rd : Nat) (v : Word) : Prop := Writes s t rd v (wrap64 (s.pc.toNat + 4))

/-- Only the pc set. -/
def Jumps (s t : State) (target : Word) : Prop :=
  SameRegs s t ∧ t.pc = target ∧ SameMemory s t ∧ SameCache s t ∧ SameControl s t ∧ SamePorts s t

/-- The instruction completes in a state that meets `P`. -/
def Completes (i : Instr) (s : State) (P : State → Prop) : Prop := ∃ t, exec i s = .next t ∧ P t

/-! Operands as mathematics. -/

/-- `uint(x[k])`. -/
def uReg (s : State) (k : Nat) : Int := (s.readReg k).toNat

/-- `sint(x[k])`. -/
def sReg (s : State) (k : Nat) : Int := (s.readReg k).toInt

/-- The low 32 bits of `x[k]` as a number. -/
def lowReg (s : State) (k : Nat) : Int := uReg s k % 2 ^ 32

/-- The 32-bit two's-complement value of an integer. -/
def sint32 (n : Int) : Int := Int.bmod n (2 ^ 32)

/-- The exact effective address. -/
def ea (s : State) (base : Nat) (offset : Int) : Int := uReg s base + offset

/-- The internal offset of an exact effective address. -/
def eaOffset (s : State) (base : Nat) (offset : Int) : Nat := (ea s base offset - s.cfg.instrUpper.toNat).toNat

/-- The number that `n` bytes from an internal offset on spell, the lowest offset least significant. -/
def leNat (s : State) (off : Nat) : Nat → Nat
  | 0 => 0
  | n + 1 => (s.getByte off).toNat + 256 * leNat s (off + 1) n

/-! The memory instructions. -/

/-- One cache access at an address: the counters, the line and the outcome (20_memory.md R84 to R87). A set without a line, which no constructed state has, misses and installs nothing (log 13). -/
def CacheTouched (s t : State) (addr : Nat) : Prop :=
  let block := addr / 64
  let set := block % s.cfg.cacheSets
  let hit := ∃ l, s.lines[set]? = some l ∧ l.valid = true ∧ l.tag.toNat = block
  t.accesses = s.accesses + 1 ∧
  (hit → t.lines = s.lines ∧ t.misses = s.misses ∧ t.trace = ⟨s.trace.record, .hit⟩) ∧
  (¬hit → t.misses = s.misses + 1 ∧ t.trace = ⟨s.trace.record, .miss⟩ ∧
    ∀ k, t.lines[k]? = if k = set ∧ k < s.lines.length then some ⟨true, BitVec.ofNat 64 block⟩ else s.lines[k]?)

/-- What a load that completes does. -/
def Loads (s t : State) (base rd : Nat) (offset : Int) (v : Word) : Prop :=
  RegsExcept s t rd v ∧ PcAdvances s t ∧ SameMemory s t ∧ SameControl s t ∧ t.dump = s.dump ∧
    CacheTouched s t (ea s base offset).toNat

/-- A load of `n` bytes completes wherever the access is in the data window, with a value that meets `P` of the bytes' number, and takes MemoryFault, changing the status alone, wherever it is not. -/
def LoadCompletes (i : Nat → Nat → Int → Instr) (n : Nat) (P : Word → Nat → Prop) : Prop :=
  ∀ s base rd offset,
    (InDataWindow s.cfg (ea s base offset) n →
      ∃ t v, exec (i base rd offset) s = .next t ∧ Loads s t base rd offset v ∧ P v (leNat s (eaOffset s base offset) n)) ∧
    (¬ InDataWindow s.cfg (ea s base offset) n → exec (i base rd offset) s = .next { s with status := .halted .memoryFault })

/-- What a store of `n` bytes that completes does: byte `j` of the register at the `j`th offset, and every other byte as before. -/
def Stores (s t : State) (base rs2 : Nat) (offset : Int) (n : Nat) : Prop :=
  SameRegs s t ∧ PcAdvances s t ∧ SameControl s t ∧ t.dump = s.dump ∧ CacheTouched s t (ea s base offset).toNat ∧
  (∀ j, j < n → ((t.getByte (eaOffset s base offset + j)).toNat : Int) = uReg s rs2 / 256 ^ j % 256) ∧
  (∀ off, ¬(eaOffset s base offset ≤ off ∧ off < eaOffset s base offset + n) → t.getByte off = s.getByte off)

/-- A store of `n` bytes completes wherever the access is in the data window of a canonical memory, and takes MemoryFault, changing the status alone, wherever it is not. -/
def StoreCompletes (i : Nat → Nat → Int → Instr) (n : Nat) : Prop :=
  ∀ s base rs2 offset,
    (s.mem.wf = true → InDataWindow s.cfg (ea s base offset) n →
      Completes (i base rs2 offset) s fun t => Stores s t base rs2 offset n) ∧
    (¬ InDataWindow s.cfg (ea s base offset) n → exec (i base rs2 offset) s = .next { s with status := .halted .memoryFault })

/-- The base, the offset and the width in bytes of a load or store. -/
def access : Instr → Option (Nat × Int × Nat)
  | .lb b _ o | .lbu b _ o | .sb b _ o => some (b, o, 1)
  | .lh b _ o | .lhu b _ o | .sh b _ o => some (b, o, 2)
  | .lw b _ o | .lwu b _ o | .sw b _ o => some (b, o, 4)
  | .ld b _ o | .sd b _ o => some (b, o, 8)
  | _ => none

/-! What a record names. -/

/-- The destination register a record names, in the order of the record formats (30_encoding.md R122 to R126). -/
def dest : Instr → Option Nat
  | .ecall | .sb _ _ _ | .sh _ _ _ | .sw _ _ _ | .sd _ _ _ => none
  | .beq _ _ _ | .bne _ _ _ | .blt _ _ _ | .bge _ _ _ | .bltu _ _ _ | .bgeu _ _ _ => none
  | i =>
    match i.operands with
    | .rrr rd _ _ => some rd
    | .rri rd _ _ => some rd
    | .ri rd _ => some rd
    | .ror _ rd _ => some rd
    | .noOperands => none

/-- The source registers a record names. -/
def sources : Instr → List Nat
  | .sb b r _ | .sh b r _ | .sw b r _ | .sd b r _ => [b, r]
  | .beq a b _ | .bne a b _ | .blt a b _ | .bge a b _ | .bltu a b _ | .bgeu a b _ => [a, b]
  | i =>
    match i.operands with
    | .rrr _ rs1 rs2 => [rs1, rs2]
    | .rri _ rs1 _ => [rs1]
    | .ri _ _ => []
    | .ror b _ _ => [b]
    | .noOperands => []

/-- The four stores. -/
def isStore : Instr → Bool
  | .sb _ _ _ | .sh _ _ _ | .sw _ _ _ | .sd _ _ _ => true
  | _ => false

/-- The branches and jumps: the instructions that may set another next pc. -/
def redirects : Instr → Bool
  | .beq _ _ _ | .bne _ _ _ | .blt _ _ _ | .bge _ _ _ | .bltu _ _ _ | .bgeu _ _ _ | .jal _ _ | .jalr _ _ _ => true
  | _ => false

/-- The nine W operations (41_arith_logical.md R217). -/
def isW : Instr → Bool
  | .addw _ _ _ | .subw _ _ _ | .sllw _ _ _ | .srlw _ _ _ | .sraw _ _ _ => true
  | .addiw _ _ _ | .slliw _ _ _ | .srliw _ _ _ | .sraiw _ _ _ => true
  | _ => false

/-! Two runs side by side. -/

/-- The states agree on all but the cache lines, the counters and the cache outcome on the trace port. -/
def AgreeButCache (s t : State) : Prop :=
  s.x = t.x ∧ s.pc = t.pc ∧ s.mem = t.mem ∧ s.status = t.status ∧ s.cfg = t.cfg ∧ s.prog = t.prog ∧ s.dump = t.dump ∧
    s.trace.record = t.trace.record

/-- The states agree on all but register `k`. -/
def AgreeButReg (k : Nat) (s t : State) : Prop :=
  (∀ j, j ≠ k → s.readReg j = t.readReg j) ∧ s.pc = t.pc ∧ s.mem = t.mem ∧ s.lines = t.lines ∧ s.accesses = t.accesses ∧
    s.misses = t.misses ∧ s.status = t.status ∧ s.cfg = t.cfg ∧ s.prog = t.prog ∧ s.trace = t.trace ∧ s.dump = t.dump

/-- Two outcomes that correspond: next states related by `R`, or the same stop. -/
def Corresponds (R : State → State → Prop) : Outcome → Outcome → Prop
  | .next s, .next t => R s t
  | .fault a, .fault b => a = b
  | .refused a, .refused b => a = b
  | _, _ => False

/-- The state with other presentation flags. -/
def withFlags (a b c : Bool) (s : State) : State :=
  { s with cfg := { s.cfg with printInstrs := a, printRegs := b, printCache := c } }

/-! Fetch, in the spec's own terms. -/

/-- The pc lies in the instruction window (40_dispatch.md R151). -/
def PcInWindow (s : State) : Prop := s.cfg.instrLower.toNat ≤ s.pc.toNat ∧ s.pc.toNat < s.cfg.instrUpper.toNat

/-- `pc - INSTR_LOWER`. -/
def pcOffset (s : State) : Nat := s.pc.toNat - s.cfg.instrLower.toNat

/-- The record at the pc is fetched: the window, alignment and array checks pass (R151 to R154). -/
def Fetches (s : State) (r : Record) : Prop :=
  PcInWindow s ∧ (pcOffset s % 4 = 0 ∨ s.cfg.fetchMisaligned = .truncate) ∧ s.prog[pcOffset s / 4]? = some r

/-- The state an instruction starts from in a step: the ports show its record and nothing else yet. -/
def Started (s : State) (i : Instr) : State := { s with trace := ⟨some i.record, .none⟩, dump := none }

end Sys2Proof.Claims

open Sys2Proof Sys2Proof.Machine Sys2Proof.Claims

/-! ## What each instruction computes, and its frame -/

/-- ADD, SUB, ADDI (41_arith_logical.md R202, R203, R210): the exact sum or difference, wrapped modulo 2^64; the wrap is the spec's own choice (92_eei_decisions.md D7). -/
def Obligations.AddSubAddiResults : Prop :=
  ∀ (s : State) (rd rs1 rs2 : Nat) (imm : Int),
    Completes (.add rd rs1 rs2) s (fun t => WritesReg s t rd (wrap64 (uReg s rs1 + uReg s rs2))) ∧
    Completes (.sub rd rs1 rs2) s (fun t => WritesReg s t rd (wrap64 (uReg s rs1 - uReg s rs2))) ∧
    Completes (.addi rd rs1 imm) s (fun t => WritesReg s t rd (wrap64 (uReg s rs1 + imm)))

/-- AND, OR, XOR and their immediate forms (R204 to R206, R211 to R213), bit by bit; an immediate operand is `wrap_64(imm)`. -/
def Obligations.LogicalResults : Prop :=
  ∀ (s : State) (rd rs1 rs2 : Nat) (imm : Int),
    let bitsAre (t : State) (b : Word) (f : Bool → Bool → Bool) :=
      ∃ v, WritesReg s t rd v ∧ ∀ j, j < 64 → v.getLsbD j = f ((s.readReg rs1).getLsbD j) (b.getLsbD j)
    Completes (.and rd rs1 rs2) s (fun t => bitsAre t (s.readReg rs2) and) ∧
    Completes (.or rd rs1 rs2) s (fun t => bitsAre t (s.readReg rs2) or) ∧
    Completes (.xor rd rs1 rs2) s (fun t => bitsAre t (s.readReg rs2) (· != ·)) ∧
    Completes (.andi rd rs1 imm) s (fun t => bitsAre t (wrap64 imm) and) ∧
    Completes (.ori rd rs1 imm) s (fun t => bitsAre t (wrap64 imm) or) ∧
    Completes (.xori rd rs1 imm) s (fun t => bitsAre t (wrap64 imm) (· != ·))

/-- SLL, SRL, SRA and their immediate forms (R207 to R209, R214 to R216): the amount is taken modulo 64; left is a wrapped product, right a quotient rounded down, unsigned or signed. -/
def Obligations.Shift64Results : Prop :=
  ∀ (s : State) (rd rs1 rs2 : Nat) (imm : Int),
    let left (sh : Int) (t : State) := WritesReg s t rd (wrap64 (uReg s rs1 * 2 ^ sh.toNat))
    let logical (sh : Int) (t : State) := ∃ v, WritesReg s t rd v ∧ (v.toNat : Int) = uReg s rs1 / 2 ^ sh.toNat
    let arithmetic (sh : Int) (t : State) := ∃ v, WritesReg s t rd v ∧ v.toInt = sReg s rs1 / 2 ^ sh.toNat
    Completes (.sll rd rs1 rs2) s (left (uReg s rs2 % 64)) ∧
    Completes (.srl rd rs1 rs2) s (logical (uReg s rs2 % 64)) ∧
    Completes (.sra rd rs1 rs2) s (arithmetic (uReg s rs2 % 64)) ∧
    Completes (.slli rd rs1 imm) s (left (imm % 64)) ∧
    Completes (.srli rd rs1 imm) s (logical (imm % 64)) ∧
    Completes (.srai rd rs1 imm) s (arithmetic (imm % 64))

/-- ADDW, SUBW, ADDIW (R218, R219, R223): the exact sum or difference as a 32-bit two's-complement number, sign-extended; the wrap modulo 2^32 is the spec's own choice (92_eei_decisions.md D7). -/
def Obligations.WordAddSubResults : Prop :=
  ∀ (s : State) (rd rs1 rs2 : Nat) (imm : Int),
    let result (n : Int) (t : State) := ∃ v, WritesReg s t rd v ∧ v.toInt = sint32 n
    Completes (.addw rd rs1 rs2) s (result (uReg s rs1 + uReg s rs2)) ∧
    Completes (.subw rd rs1 rs2) s (result (uReg s rs1 - uReg s rs2)) ∧
    Completes (.addiw rd rs1 imm) s (result (uReg s rs1 + imm))

/-- SLLW, SRAW, SLLIW, SRAIW (R220, R222, R224, R226): the low 32 bits shifted by an amount taken modulo 32, right with copies of bit 31, the 32-bit result sign-extended. -/
def Obligations.WordShiftResults : Prop :=
  ∀ (s : State) (rd rs1 rs2 : Nat) (imm : Int),
    let result (n : Int) (t : State) := ∃ v, WritesReg s t rd v ∧ v.toInt = n
    let left (sh : Int) := sint32 (lowReg s rs1 * 2 ^ sh.toNat)
    let arithmetic (sh : Int) := sint32 (lowReg s rs1) / 2 ^ sh.toNat
    Completes (.sllw rd rs1 rs2) s (result (left (uReg s rs2 % 32))) ∧
    Completes (.sraw rd rs1 rs2) s (result (arithmetic (uReg s rs2 % 32))) ∧
    Completes (.slliw rd rs1 imm) s (result (left (imm % 32))) ∧
    Completes (.sraiw rd rs1 imm) s (result (arithmetic (imm % 32)))

/-- SRLW and SRLIW (R221, R225): the low 32 bits shifted right with zero fill by an amount taken modulo 32, then sign-extended. That the fill is zero is the spec's own choice (92_eei_decisions.md D6). -/
def Obligations.WordLogicalShiftResults : Prop :=
  ∀ (s : State) (rd rs1 rs2 : Nat) (imm : Int),
    let result (sh : Int) (t : State) := ∃ v, WritesReg s t rd v ∧ v.toInt = sint32 (lowReg s rs1 / 2 ^ sh.toNat)
    Completes (.srlw rd rs1 rs2) s (result (uReg s rs2 % 32)) ∧
    Completes (.srliw rd rs1 imm) s (result (imm % 32))

/-- LUI (R227): the immediate times 4096, wrapped modulo 2^64, for every immediate; the formula is the spec's own choice (92_eei_decisions.md D5). -/
def Obligations.LuiResult : Prop :=
  ∀ (s : State) (rd : Nat) (imm : Int), Completes (.lui rd imm) s (fun t => WritesReg s t rd (wrap64 (imm * 4096)))

/-- SLT (R302): exactly 1 or 0 by the signed comparison of the first source with the second; the direction is the spec's own choice (92_eei_decisions.md D1). -/
def Obligations.SltResult : Prop :=
  ∀ (s : State) (rd rs1 rs2 : Nat),
    Completes (.slt rd rs1 rs2) s (fun t => WritesReg s t rd (if sReg s rs1 < sReg s rs2 then 1 else 0))

/-- SLTU, SLTI, SLTIU (R303 to R305): exactly 1 or 0, by an unsigned, a signed and an unsigned comparison; SLTI compares against `sint(wrap_64(imm))`, SLTIU against `uint(wrap_64(imm))`. -/
def Obligations.SetLessThanResults : Prop :=
  ∀ (s : State) (rd rs1 rs2 : Nat) (imm : Int),
    Completes (.sltu rd rs1 rs2) s (fun t => WritesReg s t rd (if uReg s rs1 < uReg s rs2 then 1 else 0)) ∧
    Completes (.slti rd rs1 imm) s (fun t => WritesReg s t rd (if sReg s rs1 < Int.bmod imm (2 ^ 64) then 1 else 0)) ∧
    Completes (.sltiu rd rs1 imm) s (fun t => WritesReg s t rd (if uReg s rs1 < imm % 2 ^ 64 then 1 else 0))

/-- The six branches (R306 to R311): the target `pc + imm` when the condition holds, else `pc + 4`, for any target, in the window or not; nothing else changes. -/
def Obligations.BranchResults : Prop :=
  ∀ (s : State) (r1 r2 : Nat) (imm : Int),
    let goes (c : Prop) [Decidable c] (t : State) :=
      Jumps s t (wrap64 (if c then s.pc.toNat + imm else s.pc.toNat + 4))
    Completes (.beq r1 r2 imm) s (goes (uReg s r1 = uReg s r2)) ∧
    Completes (.bne r1 r2 imm) s (goes (uReg s r1 ≠ uReg s r2)) ∧
    Completes (.blt r1 r2 imm) s (goes (sReg s r1 < sReg s r2)) ∧
    Completes (.bge r1 r2 imm) s (goes (sReg s r1 ≥ sReg s r2)) ∧
    Completes (.bltu r1 r2 imm) s (goes (uReg s r1 < uReg s r2)) ∧
    Completes (.bgeu r1 r2 imm) s (goes (uReg s r1 ≥ uReg s r2))

/-- AUIPC and JAL (R312, R313): the immediate times 4096 added to the instruction's own pc; the link `pc + 4` and the target `pc + imm`, in the window or not. -/
def Obligations.PcRelativeResults : Prop :=
  ∀ (s : State) (rd : Nat) (imm : Int),
    Completes (.auipc rd imm) s (fun t => WritesReg s t rd (wrap64 (s.pc.toNat + imm * 4096))) ∧
    Completes (.jal rd imm) s (fun t => Writes s t rd (wrap64 (s.pc.toNat + 4)) (wrap64 (s.pc.toNat + imm)))

/-- JALR (R314): the link `pc + 4`, and the target: the base as it was before the link is written, plus imm, with bit 0 cleared and no other bit. That the base is read first is the spec's inference from 00_scope.md R16, the wrap its own choice (92_eei_decisions.md D8). -/
def Obligations.JalrResult : Prop :=
  ∀ (s : State) (rd base : Nat) (imm : Int),
    Completes (.jalr rd base imm) s (fun t =>
      Writes s t rd (wrap64 (s.pc.toNat + 4)) (wrap64 ((uReg s base + imm) - (uReg s base + imm) % 2)))

/-- ECALL (R230, R232) by the whole 64-bit value of x17: 23 presents the dump, with all 32 registers and the ECALL's own pc, and continues; 2 raises Exit; any other value raises UnknownSyscall; a raise changes the status alone, so the pc stays at the ECALL. That all 64 bits are compared, the pc after a raise, and the pc in the dump are the spec's own choices (92_eei_decisions.md D18, D19, D27). -/
def Obligations.EcallResults : Prop :=
  ∀ s : State,
    (uReg s 17 = 23 → Completes .ecall s fun t =>
      SameRegs s t ∧ PcAdvances s t ∧ SameMemory s t ∧ SameCache s t ∧ SameControl s t ∧ t.trace = s.trace ∧
      ∃ d, t.dump = some d ∧ d.pc = s.pc ∧ d.regs.length = 32 ∧ ∀ k, k < 32 → d.regs[k]? = some (s.readReg k)) ∧
    (uReg s 17 = 2 → exec .ecall s = .next { s with status := .halted .exit }) ∧
    (uReg s 17 ≠ 23 → uReg s 17 ≠ 2 → exec .ecall s = .next { s with status := .halted .unknownSyscall })

/-- LB, LH, LW (42_memory_ops.md R262 to R264): inside the data window, the little-endian bytes as a two's-complement number, one cache access at the effective address, any alignment, any destination; outside it MemoryFault, and nothing written. What counts as outside on an overflowing sum is the spec's own choice (92_eei_decisions.md D11), and that a set without a line misses and installs nothing is the model's (log 13). -/
def Obligations.SignedLoadResults : Prop :=
  LoadCompletes .lb 1 (fun v n => v.toInt = Int.bmod n (2 ^ 8)) ∧
  LoadCompletes .lh 2 (fun v n => v.toInt = Int.bmod n (2 ^ 16)) ∧
  LoadCompletes .lw 4 (fun v n => v.toInt = Int.bmod n (2 ^ 32))

/-- LD, LBU, LHU, LWU (R265 to R268): the same with the bytes as a natural number. What counts as outside on an overflowing sum is the spec's own choice (92_eei_decisions.md D11), and that a set without a line misses and installs nothing is the model's (log 13). -/
def Obligations.UnsignedLoadResults : Prop :=
  LoadCompletes .ld 8 (fun v n => v.toNat = n) ∧
  LoadCompletes .lbu 1 (fun v n => v.toNat = n) ∧
  LoadCompletes .lhu 2 (fun v n => v.toNat = n) ∧
  LoadCompletes .lwu 4 (fun v n => v.toNat = n)

/-- SB, SH, SW, SD (R269 to R272): inside the data window, the low bytes of the register little-endian at the effective address and no other byte, one cache access, no register; outside it MemoryFault, and no byte. The memory is canonical, which every constructed state's is and every step keeps. What counts as outside on an overflowing sum is the spec's own choice (92_eei_decisions.md D11), and that a set without a line misses and installs nothing is the model's (log 13). -/
def Obligations.StoreResults : Prop :=
  StoreCompletes .sb 1 ∧ StoreCompletes .sh 2 ∧ StoreCompletes .sw 4 ∧ StoreCompletes .sd 8

/-- Every load and store outside the data window, or with an overflow in either sum, takes MemoryFault and changes the status alone (20_memory.md R73, R74; 60_exceptions.md R402); inside it none does, and each makes one cache access. That the effective address is an exact integer is the spec's own choice (92_eei_decisions.md D11). -/
def Obligations.MemoryFaultExactly : Prop :=
  ∀ (i : Instr) (base : Nat) (offset : Int) (n : Nat) (s : State), access i = some (base, offset, n) →
    (¬ InDataWindow s.cfg (ea s base offset) n → exec i s = .next { s with status := .halted .memoryFault }) ∧
    (InDataWindow s.cfg (ea s base offset) n → Completes i s fun t => t.status = s.status ∧ t.accesses = s.accesses + 1)

/-! ## The data memory and the cache across instructions -/

/-- What a doubleword store puts in memory, the loads of every width at its address read back: all 64 bits, the low 32, 16 or 8 bits, and at four bytes further the high 32 (20_memory.md R79, R93; the widths mixed are the spec's inference). -/
def Obligations.LoadSeesStore : Prop :=
  ∀ (s : State) (base rs2 rd : Nat) (offset : Int),
    s.mem.wf = true → InDataWindow s.cfg (ea s base offset) 8 → 1 ≤ rd → rd ≤ 31 →
    Completes (.sd base rs2 offset) s fun t =>
      Completes (.ld base rd offset) t (fun u => uReg u rd = uReg s rs2) ∧
      Completes (.lwu base rd offset) t (fun u => uReg u rd = uReg s rs2 % 2 ^ 32) ∧
      Completes (.lhu base rd offset) t (fun u => uReg u rd = uReg s rs2 % 2 ^ 16) ∧
      Completes (.lbu base rd offset) t (fun u => uReg u rd = uReg s rs2 % 2 ^ 8) ∧
      Completes (.lwu base rd (offset + 4)) t (fun u => uReg u rd = uReg s rs2 / 2 ^ 32)

/-- Two addresses whose different block numbers leave the same remainder modulo the number of sets evict each other; an access to a block makes the next access to it a hit, and leaves the hits of the other sets alone (20_memory.md R84 to R89). -/
def Obligations.CacheConflictEvicts : Prop :=
  ∀ (s : State) (a b : Word), s.Inv →
    (s.cacheAccess a).cacheHit a = true ∧
    (blockOf a ≠ blockOf b → blockOf a % s.cfg.cacheSets = blockOf b % s.cfg.cacheSets →
      ((s.cacheAccess a).cacheAccess b).cacheHit a = false) ∧
    (blockOf a % s.cfg.cacheSets ≠ blockOf b % s.cfg.cacheSets → (s.cacheAccess a).cacheHit b = s.cacheHit b)

/-- The register file's law, and the lenient accesses (10_state.md R31 to R33, 20_memory.md R78, 60_exceptions.md R418): a written register among x1 to x31 reads back its value and no other changes; a write to x0 or above 31 changes nothing; x0 and every number above 31 read 0; a byte read at or beyond MEMORY_SZ is 0. -/
def Obligations.RegisterLawAndLenientAccesses : Prop :=
  ∀ (s : State) (v : Word),
    (∀ r, 1 ≤ r → r ≤ 31 → (s.writeReg r v).readReg r = v ∧ ∀ k, k ≠ r → (s.writeReg r v).readReg k = s.readReg k) ∧
    (∀ r, r = 0 ∨ 31 < r → s.writeReg r v = s ∧ s.readReg r = 0) ∧
    (∀ off, s.cfg.memorySz.toNat ≤ off → s.getByte off = 0)

/-! ## Rules about every instruction -/

/-- No instruction changes a register its record does not name as its destination, and none changes x0 or reads one above 31 as anything but 0 (10_state.md R32, R34). -/
def Obligations.OnlyDestinationWritten : Prop :=
  ∀ (i : Instr) (s t : State), exec i s = .next t →
    (∀ k, dest i ≠ some k → t.readReg k = s.readReg k) ∧ t.readReg 0 = 0 ∧ ∀ k, 31 < k → t.readReg k = 0

/-- A register that an instruction's record does not name as a source does not influence what the instruction does; of ECALL, which also presents every register, only x17 decides the outcome and the next state outside the dump port (10_state.md R34). -/
def Obligations.UnnamedRegisterIrrelevant : Prop :=
  ∀ (i : Instr) (k : Nat) (s s' : State), AgreeButReg k s s' → k ∉ sources i →
    (i ≠ .ecall → Corresponds (AgreeButReg k) (exec i s) (exec i s')) ∧
    (i = .ecall → k ≠ 17 →
      Corresponds (fun t t' => AgreeButReg k { t with dump := none } { t' with dump := none }) (exec i s) (exec i s'))

/-- Only the memory group touches the cache, and only the four stores change a byte (20_memory.md R70, R88, R92). -/
def Obligations.OnlyMemoryGroupTouchesMemory : Prop :=
  ∀ (i : Instr) (s t : State), exec i s = .next t →
    (i.group ≠ .memory → SameMemory s t ∧ SameCache s t ∧ t.trace = s.trace) ∧
    (isStore i = false → SameMemory s t)

/-- An instruction that completes, other than a branch or jump, leaves the pc at `pc + 4`; one that raises leaves it where it was (10_state.md R38; the second is the spec's own choice, 92_eei_decisions.md D18). -/
def Obligations.OnlyBranchesRedirect : Prop :=
  ∀ (i : Instr) (s t : State), s.status = .running → exec i s = .next t →
    (t.status = .running → redirects i = false → PcAdvances s t) ∧ (t.status ≠ .running → t.pc = s.pc)

/-- The bits above 31 of the sources never affect a W operation's result, and bits 63 to 32 of the result equal bit 31 (41_arith_logical.md R217; its wrap and SRLW's zero fill are the spec's own choices, 92_eei_decisions.md D6, D7). -/
def Obligations.WordOperationsIgnoreUpperHalves : Prop :=
  ∀ (i : Instr) (s s' t t' : State), isW i = true →
    (∀ k, lowReg s k = lowReg s' k) → exec i s = .next t → exec i s' = .next t' →
    ∀ rd, dest i = some rd →
      t.readReg rd = t'.readReg rd ∧
      ∀ j, 32 ≤ j → j < 64 → (t.readReg rd).getLsbD j = (t.readReg rd).getLsbD 31

/-- Which exception an executed instruction can raise (60_exceptions.md R400, R402, R404, R405): MemoryFault by a load or store outside the data window, Exit by ECALL with x17 = 2, UnknownSyscall by ECALL with x17 neither 2 nor 23, and InstructionFault never; what counts as outside the window and as x17 rests on the spec's own choices (92_eei_decisions.md D11, D19). -/
def Obligations.ExceptionsOfInstructions : Prop :=
  ∀ (i : Instr) (s t : State) (k : ExceptionKind), s.status = .running → exec i s = .next t → t.status = .halted k →
    (k = .memoryFault ∧ ∃ base offset n, access i = some (base, offset, n) ∧ ¬ InDataWindow s.cfg (ea s base offset) n) ∨
    (k = .exit ∧ i = .ecall ∧ uReg s 17 = 2) ∨
    (k = .unknownSyscall ∧ i = .ecall ∧ uReg s 17 ≠ 2 ∧ uReg s 17 ≠ 23)

/-- Offering an instruction to the three groups in their order, and retiring the first answer, gives the state `exec` gives; exactly one group claims each instruction, and the others answer "not mine" (40_dispatch.md R156, R159; that the order is unobservable is the spec's inference). -/
def Obligations.GroupDispatchAgrees : Prop :=
  ∀ (i : Instr) (s : State), s.status = .running →
    exec i s = .next (dispatch i s groupOrder) ∧
    ∃ g, g ∈ groupOrder ∧ offer g i s ≠ .notMine ∧ ∀ g', g' ≠ g → offer g' i s = .notMine

/-! ## The step -/

/-- A running block whose fetch accepts the pc and whose record is an instruction runs that instruction: the step is `exec`, from the state with the record on the trace port (40_dispatch.md R150 to R153). Under `truncate` this holds at a pc that is not on a record boundary too, with the pc unaligned; that case is the spec's open parameter (92_eei_decisions.md D9; log 6), and the ports are the model's (log 8). -/
def Obligations.StepRunsFetchedInstruction : Prop :=
  ∀ (s : State) (r : Record) (i : Instr), s.status = .running → Fetches s r → r.instr = .ok i →
    step s = exec i (Started s i) ∧ r = i.record

/-- The instruction of a table word, stored where the next step fetches, is the one that step runs. Words and the store are the model's interface (logs 5 and 10). -/
def Obligations.FetchWordIsNextStep : Prop :=
  ∀ (s : State) (nbits w : Nat) (i : Instr), decodeTableWord nbits w = some i →
    step (s.withFetchWord nbits w) = exec i (Started (s.withFetchWord nbits w) i)

/-- A step of a running block raises InstructionFault exactly for the five causes (60_exceptions.md R401), and then changes nothing but the status and the ports. Causes (b), (c) and (e) are the spec's own choices (92_eei_decisions.md D9, D10, D22); the ports are the model's (log 8). -/
def Obligations.InstructionFaultExactly : Prop :=
  ∀ s : State, s.status = .running →
    ((∃ t, step s = .next t ∧ t.status = .halted .instructionFault) ↔
      (¬ PcInWindow s ∨
       (s.cfg.fetchMisaligned = .fault ∧ pcOffset s % 4 ≠ 0) ∨
       s.prog.length ≤ pcOffset s / 4 ∨
       ∃ r, s.prog[pcOffset s / 4]? = some r ∧
         ((∃ c, r.op = .other c) ∨ ∃ tag, r.op = .known tag ∧ r.operands.format ≠ tag.format))) ∧
    ∀ t, step s = .next t → t.status = .halted .instructionFault →
      t = { s with status := .halted .instructionFault, trace := ⟨none, .none⟩, dump := none }

/-- The status (60_exceptions.md R403): construction gives Running; while Running every step answers a state, which is Running or Halted with one of the four kinds; Halted has no step and no run out of it. That the step answers a fault there is the model's form (DEDUCED, log 7). -/
def Obligations.RunStatusTransitions : Prop :=
  ∀ s : State,
    (∀ c prog regInit memInit tagInit, construct c prog regInit memInit tagInit = .ok s → s.status = .running) ∧
    (s.status = .running → ∃ t, step s = .next t) ∧
    (∀ k, s.status = .halted k → step s = .fault (.halted k) ∧
      ∀ n t, Host.Core.run Sys2Proof.core n s = .next t → t = s)

/-- A step that raises writes no state: registers, pc, memory, cache lines and counters are those before the step; only the status and the step's ports differ (00_scope.md R14, 60_exceptions.md R407; for all kinds but MemoryFault the spec's own choice, 92_eei_decisions.md D18; the ports are the model's, log 8). -/
def Obligations.RaisingStepWritesNothing : Prop :=
  ∀ (s t : State) (k : ExceptionKind), step s = .next t → t.status = .halted k →
    t = { s with status := .halted k, trace := ⟨t.trace.record, .none⟩, dump := none }

/-- Construction latches the supplied configuration and instruction array with the status Running, and no step and no run changes either (10_state.md R43, 70_reset_and_hazards.md R505). -/
def Obligations.ConfigurationAndProgramConstant : Prop :=
  ∀ s : State,
    (∀ c prog regInit memInit tagInit, construct c prog regInit memInit tagInit = .ok s →
      s.cfg = c ∧ s.prog = prog ∧ s.status = .running) ∧
    (∀ t, step s = .next t → t.cfg = s.cfg ∧ t.prog = s.prog) ∧
    (∀ n t, Host.Core.run Sys2Proof.core n s = .next t → t.cfg = s.cfg ∧ t.prog = s.prog)

/-- A step changes at most one register, counts at most one cache access and at most one miss, and presents a cache outcome exactly when it counts an access (40_dispatch.md R162, 10_state.md R50; the port held in the state is the model's, log 8). -/
def Obligations.StepTouchesAtMostOnce : Prop :=
  ∀ s t : State, step s = .next t →
    (∀ j k, t.readReg j ≠ s.readReg j → t.readReg k ≠ s.readReg k → j = k) ∧
    ((t.accesses = s.accesses ∧ t.misses = s.misses ∧ t.trace.cache = .none) ∨
     (t.accesses = s.accesses + 1 ∧ t.misses = s.misses ∧ t.trace.cache = .hit) ∨
     (t.accesses = s.accesses + 1 ∧ t.misses = s.misses + 1 ∧ t.trace.cache = .miss))

/-- The dump port carries an event after a step exactly when that step ran an ECALL with x17 = 23 (10_state.md R51; the port held in the state is the model's, log 8). -/
def Obligations.DumpOnlyFromEcall : Prop :=
  ∀ s t : State, step s = .next t →
    ((∃ d, t.dump = some d) ↔ ∃ r, Fetches s r ∧ r.instr = .ok .ecall ∧ uReg s 17 = 23)

/-- The misses never pass the accesses while the access counter does not wrap (20_memory.md R91, which the spec derives from R84). -/
def Obligations.MissesAtMostAccesses : Prop :=
  ∀ s t : State, step s = .next t → s.accesses.toNat + 1 < 2 ^ 64 → s.misses.toNat ≤ s.accesses.toNat →
    t.misses.toNat ≤ t.accesses.toNat

/-! ## Invariants -/

/-- Every step keeps the invariant: the configuration valid, one line for each set, the memory canonical and inside its size, and every valid line in its set with a block number below 2^58. -/
def Obligations.StepKeepsInvariant : Prop :=
  ∀ s t : State, s.Inv → step s = .next t → t.Inv

/-- So does every run of the machine, of any length from any state that meets it. -/
def Obligations.RunKeepsInvariant : Prop :=
  ∀ (n : Nat) (s t : State), s.Inv → Host.Core.run Sys2Proof.core n s = .next t → t.Inv

/-- The reset state meets the invariant; its configuration, contents and empty program are the model's choice (logs 1 to 5). -/
def Obligations.ResetMeetsInvariant : Prop := State.reset.Inv

/-- Construction is refused exactly for an invalid cache geometry, and every other construction, whatever the program and the initial contents, gives a state that meets the invariant. -/
def Obligations.ConstructionMeetsInvariant : Prop :=
  ∀ (c : Config) (prog : List Record) (regInit : Nat → Word) (memInit : Nat → Byte) (tagInit : Nat → Word),
    (¬ c.Valid → construct c prog regInit memInit tagInit = .error .configError) ∧
    (c.Valid → ∃ s, construct c prog regInit memInit tagInit = .ok s ∧ s.Inv)

/-- What construction leaves (10_state.md R53, 70_reset_and_hazards.md R501 to R505), for every REG_INIT and MEM_INIT: x0 reads 0, x1 to x31 and the bytes of memory are the supplied contents, the pc is the entry address, every line is invalid, the counters are 0 and the status is Running. The pc and the counters are the spec's own choices (92_eei_decisions.md D15, D16). -/
def Obligations.ConstructionValues : Prop :=
  ∀ (c : Config) (prog : List Record) (regInit : Nat → Word) (memInit : Nat → Byte) (tagInit : Nat → Word),
    (c.cacheTotalLines ≠ c.cacheSets ∨ c.cacheSets = 0 → construct c prog regInit memInit tagInit = .error .configError) ∧
    (c.cacheTotalLines = c.cacheSets → c.cacheSets ≠ 0 →
      ∃ s, construct c prog regInit memInit tagInit = .ok s ∧
        s.readReg 0 = 0 ∧ (∀ k, 1 ≤ k → k ≤ 31 → s.readReg k = regInit k) ∧
        s.pc = c.entryAddress ∧
        (∀ off, off < c.memorySz.toNat → s.getByte off = memInit off) ∧
        (∀ k, k < c.cacheSets → ∃ l, s.lines[k]? = some l ∧ l.valid = false) ∧ s.lines.length = c.cacheSets ∧
        s.accesses = 0 ∧ s.misses = 0 ∧ s.status = .running ∧ s.cfg = c ∧ s.prog = prog)

/-! ## Isolation -/

/-- The cache is invisible to the program: two states that agree on all but the cache step to states that agree on all but the cache (10_state.md R47, 20_memory.md R90). -/
def Obligations.CacheNeverInfluencesExecution : Prop :=
  ∀ s s' : State, AgreeButCache s s' → Corresponds AgreeButCache (step s) (step s')

/-- The presentation flags change nothing: a step with other flags is the same step with other flags (10_state.md R50, 60_exceptions.md R415). -/
def Obligations.PresentationFlagsInert : Prop :=
  ∀ (s : State) (a b c : Bool),
    Corresponds (fun t t' => t' = withFlags a b c t) (step s) (step (withFlags a b c s))

/-! ## Encoding -/

/-- The word of every well-formed instruction decodes to that instruction, with every operand. The words are general knowledge in the spec (00_scope.md R6; log 10). -/
def Obligations.DecodeOfEncode : Prop := ∀ i : Instr, i.wf = true → decodeWord (encode i) = .ok i

/-- Every word that decodes is the word of the well-formed instruction it decodes to, so each word has one meaning and no bit is ignored (log 10). -/
def Obligations.EncodeOfDecode : Prop := ∀ (w : InstrWord) (i : Instr), decodeWord w = .ok i → i.wf = true ∧ encode i = w

/-- At most one row of the opcode map matches a word (30_encoding.md R136; log 10). -/
def Obligations.AtMostOneRowMatches : Prop :=
  ∀ (w : InstrWord) (t t' : Tag), w &&& t.row.mask = t.row.bits → w &&& t'.row.mask = t'.row.bits → t = t'

/-- A word that matches no row is an unclaimed tag, and fetching its record raises InstructionFault; among them every word of opcode 0x0F (FENCE), EBREAK, every SYSTEM word but ECALL, and the SLLIW, SRLIW and SRAIW words with bit 25 set (30_encoding.md R137; log 10). -/
def Obligations.UnmatchedWordsFault : Prop :=
  ∀ (w : InstrWord) (s : State),
    ((∀ t : Tag, w &&& t.row.mask ≠ t.row.bits) ∨
      w.extractLsb 6 0 = 0x0F ∨ w = 0x00100073 ∨ (w.extractLsb 6 0 = 0x73 ∧ w ≠ 0x00000073) ∨
      (w.extractLsb 6 0 = 0x1B ∧ (w.extractLsb 14 12 = 1 ∨ w.extractLsb 14 12 = 5) ∧ w.getLsbD 25 = true)) →
    (∃ c, (recordOfWord w).op = .other c) ∧
    (s.status = .running → Fetches s (recordOfWord w) →
      ∃ t, step s = .next t ∧ t.status = .halted .instructionFault)

/-- Some words of the programs in 95_test_vectors.md §3 decode to the records listed beside them (sanity; log 10). -/
def Obligations.ListedWordsDecode : Prop :=
  decodeWord 0x00530333 = .ok (.add 6 6 5) ∧ decodeWord 0xFFF28293 = .ok (.addi 5 5 (-1)) ∧
  decodeWord 0xFE029CE3 = .ok (.bne 5 0 (-8)) ∧ decodeWord 0x00000073 = .ok .ecall ∧
  decodeWord 0x0020A023 = .ok (.sw 1 2 0) ∧ decodeWord 0x0030C283 = .ok (.lbu 1 5 3) ∧
  decodeWord 0xFE40BC23 = .ok (.sd 1 4 (-8)) ∧ decodeWord 0x010000EF = .ok (.jal 1 16) ∧
  decodeWord 0x00008067 = .ok (.jalr 0 1 0) ∧ decodeWord 0x4011D29B = .ok (.sraiw 5 3 1) ∧
  decodeWord 0x03C1D313 = .ok (.srli 6 3 60) ∧ decodeWord 0x800000B7 = .ok (.lui 1 (-524288))
end

