-- ==== Sys2Proof/Laws/State.lean ====
section
/-! SUPPORT. The small lemmas of the state: for each update of State, what it does to each field and to each read of a register or a byte, so that no later proof unfolds a record update. -/

namespace Sys2Proof.Machine

variable (s : State)

/-! `setPc` -/

@[simp] theorem setPc_x (p : Word) : (s.setPc p).x = s.x := rfl
@[simp] theorem setPc_pc (p : Word) : (s.setPc p).pc = p := rfl
@[simp] theorem setPc_mem (p : Word) : (s.setPc p).mem = s.mem := rfl
@[simp] theorem setPc_lines (p : Word) : (s.setPc p).lines = s.lines := rfl
@[simp] theorem setPc_accesses (p : Word) : (s.setPc p).accesses = s.accesses := rfl
@[simp] theorem setPc_misses (p : Word) : (s.setPc p).misses = s.misses := rfl
@[simp] theorem setPc_status (p : Word) : (s.setPc p).status = s.status := rfl
@[simp] theorem setPc_cfg (p : Word) : (s.setPc p).cfg = s.cfg := rfl
@[simp] theorem setPc_prog (p : Word) : (s.setPc p).prog = s.prog := rfl
@[simp] theorem setPc_trace (p : Word) : (s.setPc p).trace = s.trace := rfl
@[simp] theorem setPc_dump (p : Word) : (s.setPc p).dump = s.dump := rfl

/-! `raise` -/

@[simp] theorem raise_x (k : ExceptionKind) : (s.raise k).x = s.x := rfl
@[simp] theorem raise_pc (k : ExceptionKind) : (s.raise k).pc = s.pc := rfl
@[simp] theorem raise_mem (k : ExceptionKind) : (s.raise k).mem = s.mem := rfl
@[simp] theorem raise_lines (k : ExceptionKind) : (s.raise k).lines = s.lines := rfl
@[simp] theorem raise_accesses (k : ExceptionKind) : (s.raise k).accesses = s.accesses := rfl
@[simp] theorem raise_misses (k : ExceptionKind) : (s.raise k).misses = s.misses := rfl
@[simp] theorem raise_status (k : ExceptionKind) : (s.raise k).status = .halted k := rfl
@[simp] theorem raise_cfg (k : ExceptionKind) : (s.raise k).cfg = s.cfg := rfl
@[simp] theorem raise_prog (k : ExceptionKind) : (s.raise k).prog = s.prog := rfl
@[simp] theorem raise_trace (k : ExceptionKind) : (s.raise k).trace = s.trace := rfl
@[simp] theorem raise_dump (k : ExceptionKind) : (s.raise k).dump = s.dump := rfl

/-! `present` -/

@[simp] theorem present_x (r : Option Record) : (s.present r).x = s.x := rfl
@[simp] theorem present_pc (r : Option Record) : (s.present r).pc = s.pc := rfl
@[simp] theorem present_mem (r : Option Record) : (s.present r).mem = s.mem := rfl
@[simp] theorem present_lines (r : Option Record) : (s.present r).lines = s.lines := rfl
@[simp] theorem present_accesses (r : Option Record) : (s.present r).accesses = s.accesses := rfl
@[simp] theorem present_misses (r : Option Record) : (s.present r).misses = s.misses := rfl
@[simp] theorem present_status (r : Option Record) : (s.present r).status = s.status := rfl
@[simp] theorem present_cfg (r : Option Record) : (s.present r).cfg = s.cfg := rfl
@[simp] theorem present_prog (r : Option Record) : (s.present r).prog = s.prog := rfl
@[simp] theorem present_trace (r : Option Record) : (s.present r).trace = ⟨r, .none⟩ := rfl
@[simp] theorem present_dump (r : Option Record) : (s.present r).dump = none := rfl

/-! `presentDump` -/

@[simp] theorem presentDump_x : (s.presentDump).x = s.x := rfl
@[simp] theorem presentDump_pc : (s.presentDump).pc = s.pc := rfl
@[simp] theorem presentDump_mem : (s.presentDump).mem = s.mem := rfl
@[simp] theorem presentDump_lines : (s.presentDump).lines = s.lines := rfl
@[simp] theorem presentDump_accesses : (s.presentDump).accesses = s.accesses := rfl
@[simp] theorem presentDump_misses : (s.presentDump).misses = s.misses := rfl
@[simp] theorem presentDump_status : (s.presentDump).status = s.status := rfl
@[simp] theorem presentDump_cfg : (s.presentDump).cfg = s.cfg := rfl
@[simp] theorem presentDump_prog : (s.presentDump).prog = s.prog := rfl
@[simp] theorem presentDump_trace : (s.presentDump).trace = s.trace := rfl
@[simp] theorem presentDump_dump : (s.presentDump).dump = some ⟨s.regSnapshot, s.pc⟩ := rfl

/-! `memWrite` -/

@[simp] theorem memWrite_x (ea : Word) (z : AccessSize) (v : Word) : (s.memWrite ea z v).x = s.x := rfl
@[simp] theorem memWrite_pc (ea : Word) (z : AccessSize) (v : Word) : (s.memWrite ea z v).pc = s.pc := rfl
@[simp] theorem memWrite_mem (ea : Word) (z : AccessSize) (v : Word) : (s.memWrite ea z v).mem = s.mem.writeLE (s.offsetOf ea) v z.bytes := rfl
@[simp] theorem memWrite_lines (ea : Word) (z : AccessSize) (v : Word) : (s.memWrite ea z v).lines = s.lines := rfl
@[simp] theorem memWrite_accesses (ea : Word) (z : AccessSize) (v : Word) : (s.memWrite ea z v).accesses = s.accesses := rfl
@[simp] theorem memWrite_misses (ea : Word) (z : AccessSize) (v : Word) : (s.memWrite ea z v).misses = s.misses := rfl
@[simp] theorem memWrite_status (ea : Word) (z : AccessSize) (v : Word) : (s.memWrite ea z v).status = s.status := rfl
@[simp] theorem memWrite_cfg (ea : Word) (z : AccessSize) (v : Word) : (s.memWrite ea z v).cfg = s.cfg := rfl
@[simp] theorem memWrite_prog (ea : Word) (z : AccessSize) (v : Word) : (s.memWrite ea z v).prog = s.prog := rfl
@[simp] theorem memWrite_trace (ea : Word) (z : AccessSize) (v : Word) : (s.memWrite ea z v).trace = s.trace := rfl
@[simp] theorem memWrite_dump (ea : Word) (z : AccessSize) (v : Word) : (s.memWrite ea z v).dump = s.dump := rfl

/-! `writeReg` -/

@[simp] theorem writeReg_pc (i : Nat) (v : Word) : (s.writeReg i v).pc = s.pc := by
  unfold State.writeReg; split <;> rfl
@[simp] theorem writeReg_mem (i : Nat) (v : Word) : (s.writeReg i v).mem = s.mem := by
  unfold State.writeReg; split <;> rfl
@[simp] theorem writeReg_lines (i : Nat) (v : Word) : (s.writeReg i v).lines = s.lines := by
  unfold State.writeReg; split <;> rfl
@[simp] theorem writeReg_accesses (i : Nat) (v : Word) : (s.writeReg i v).accesses = s.accesses := by
  unfold State.writeReg; split <;> rfl
@[simp] theorem writeReg_misses (i : Nat) (v : Word) : (s.writeReg i v).misses = s.misses := by
  unfold State.writeReg; split <;> rfl
@[simp] theorem writeReg_status (i : Nat) (v : Word) : (s.writeReg i v).status = s.status := by
  unfold State.writeReg; split <;> rfl
@[simp] theorem writeReg_cfg (i : Nat) (v : Word) : (s.writeReg i v).cfg = s.cfg := by
  unfold State.writeReg; split <;> rfl
@[simp] theorem writeReg_prog (i : Nat) (v : Word) : (s.writeReg i v).prog = s.prog := by
  unfold State.writeReg; split <;> rfl
@[simp] theorem writeReg_trace (i : Nat) (v : Word) : (s.writeReg i v).trace = s.trace := by
  unfold State.writeReg; split <;> rfl
@[simp] theorem writeReg_dump (i : Nat) (v : Word) : (s.writeReg i v).dump = s.dump := by
  unfold State.writeReg; split <;> rfl

/-! `cacheAccess` -/

@[simp] theorem cacheAccess_x (a : Word) : (s.cacheAccess a).x = s.x := by
  unfold State.cacheAccess; split <;> rfl
@[simp] theorem cacheAccess_pc (a : Word) : (s.cacheAccess a).pc = s.pc := by
  unfold State.cacheAccess; split <;> rfl
@[simp] theorem cacheAccess_mem (a : Word) : (s.cacheAccess a).mem = s.mem := by
  unfold State.cacheAccess; split <;> rfl
@[simp] theorem cacheAccess_status (a : Word) : (s.cacheAccess a).status = s.status := by
  unfold State.cacheAccess; split <;> rfl
@[simp] theorem cacheAccess_cfg (a : Word) : (s.cacheAccess a).cfg = s.cfg := by
  unfold State.cacheAccess; split <;> rfl
@[simp] theorem cacheAccess_prog (a : Word) : (s.cacheAccess a).prog = s.prog := by
  unfold State.cacheAccess; split <;> rfl
@[simp] theorem cacheAccess_dump (a : Word) : (s.cacheAccess a).dump = s.dump := by
  unfold State.cacheAccess; split <;> rfl
@[simp] theorem cacheAccess_accesses (a : Word) : (s.cacheAccess a).accesses = s.accesses + 1 := by
  unfold State.cacheAccess; split <;> rfl
theorem cacheAccess_misses (a : Word) :
    (s.cacheAccess a).misses = if s.cacheHit a then s.misses else s.misses + 1 := by
  unfold State.cacheAccess; split <;> rfl
theorem cacheAccess_lines (a : Word) :
    (s.cacheAccess a).lines =
      if s.cacheHit a then s.lines else s.lines.set (s.setOf a) ⟨true, BitVec.ofNat 64 (blockOf a)⟩ := by
  unfold State.cacheAccess; split <;> rfl
theorem cacheAccess_trace (a : Word) :
    (s.cacheAccess a).trace = ⟨s.trace.record, if s.cacheHit a then .hit else .miss⟩ := by
  unfold State.cacheAccess; split <;> rfl

/-! Reading a register after each update. -/

/-- A read after a write (10_state.md R31, R32): the value where the register exists and is the one written. -/
theorem readReg_writeReg (i k : Nat) (v : Word) :
    (s.writeReg i v).readReg k = if k = i ∧ 1 ≤ i ∧ i ≤ 31 then v else s.readReg k := by
  unfold State.writeReg
  by_cases hi : 1 ≤ i ∧ i ≤ 31
  · rw [dif_pos hi]
    unfold State.readReg
    by_cases hk : 1 ≤ k ∧ k ≤ 31
    · simp only [dif_pos hk, Vector.getElem_set, hi, and_true]
      have : (i - 1 = k - 1) = (k = i) := by simp only [eq_iff_iff]; omega
      simp only [this]
    · simp only [dif_neg hk]
      rw [if_neg]
      rintro ⟨rfl, h⟩; exact hk h
  · rw [dif_neg hi, if_neg]
    rintro ⟨rfl, h⟩; exact hi h

@[simp] theorem readReg_zero : s.readReg 0 = 0 := by simp [State.readReg]
theorem readReg_above {k : Nat} (h : 31 < k) : s.readReg k = 0 := by
  unfold State.readReg; rw [dif_neg]; omega
@[simp] theorem writeReg_zero (v : Word) : s.writeReg 0 v = s := by simp [State.writeReg]
theorem writeReg_above {k : Nat} (h : 31 < k) (v : Word) : s.writeReg k v = s := by
  unfold State.writeReg; rw [dif_neg]; omega

/-- Registers are read from the field `x` alone. -/
theorem readReg_congr {s t : State} (h : t.x = s.x) (k : Nat) : t.readReg k = s.readReg k := by
  unfold State.readReg; rw [h]

@[simp] theorem readReg_setPc (p : Word) (k : Nat) : (s.setPc p).readReg k = s.readReg k := readReg_congr rfl k
@[simp] theorem readReg_raise (e : ExceptionKind) (k : Nat) : (s.raise e).readReg k = s.readReg k := readReg_congr rfl k
@[simp] theorem readReg_present (r : Option Record) (k : Nat) : (s.present r).readReg k = s.readReg k := readReg_congr rfl k
@[simp] theorem readReg_presentDump (k : Nat) : s.presentDump.readReg k = s.readReg k := readReg_congr rfl k
@[simp] theorem readReg_memWrite (ea : Word) (z : AccessSize) (v : Word) (k : Nat) :
    (s.memWrite ea z v).readReg k = s.readReg k := readReg_congr rfl k
@[simp] theorem readReg_cacheAccess (a : Word) (k : Nat) : (s.cacheAccess a).readReg k = s.readReg k :=
  readReg_congr (cacheAccess_x s a) k

/-! Reading a byte after each update. -/

/-- Bytes are read from the memory and its size alone. -/
theorem getByte_congr {s t : State} (hm : t.mem = s.mem) (hc : t.cfg = s.cfg) (off : Nat) : t.getByte off = s.getByte off := by
  unfold State.getByte; rw [hm, hc]

@[simp] theorem getByte_setPc (p : Word) (off : Nat) : (s.setPc p).getByte off = s.getByte off := getByte_congr rfl rfl off
@[simp] theorem getByte_raise (e : ExceptionKind) (off : Nat) : (s.raise e).getByte off = s.getByte off := getByte_congr rfl rfl off
@[simp] theorem getByte_present (r : Option Record) (off : Nat) : (s.present r).getByte off = s.getByte off := getByte_congr rfl rfl off
@[simp] theorem getByte_presentDump (off : Nat) : s.presentDump.getByte off = s.getByte off := getByte_congr rfl rfl off
@[simp] theorem getByte_writeReg (i : Nat) (v : Word) (off : Nat) : (s.writeReg i v).getByte off = s.getByte off :=
  getByte_congr (writeReg_mem s i v) (writeReg_cfg s i v) off
@[simp] theorem getByte_cacheAccess (a : Word) (off : Nat) : (s.cacheAccess a).getByte off = s.getByte off :=
  getByte_congr (cacheAccess_mem s a) (cacheAccess_cfg s a) off

/-! Construction gives `State.reset`. -/

theorem initialMemory_unlisted (n : Nat) : initialMemory n (fun _ => Memory.unlisted) = [] := by
  simp [initialMemory]

/-- `State.reset` is the construction from `CFG`, an empty array and zero for the open contents. -/
theorem construct_reset : construct Config.cfg [] (fun _ => 0) (fun _ => 0) (fun _ => 0) = .ok State.reset := by
  have h : initialMemory Config.cfg.memorySz.toNat (fun _ => 0) = [] := initialMemory_unlisted _
  unfold construct
  rw [if_pos (by decide)]
  unfold constructed
  rw [h]
  rfl

end Sys2Proof.Machine
end

