-- ==== Sys2Proof/Laws/Memory.lean ====
section
/-! SUPPORT. The laws of the data memory: read after write, every operation keeps the canonical form and the size bound, and the bytes of a little-endian write. -/

namespace Sys2Proof.Machine

/-! Read after write. -/

theorem Memory.get_cons (off : Nat) (v : Byte) (m : Memory) (k : Nat) (h : m.get off = Memory.unlisted) :
    (Memory.cons off v m).get k = if k = off then v else m.get k := by
  unfold Memory.cons
  split
  · next hv => split
               · next hk => rw [hk, h, hv]
               · rfl
  · simp only [Memory.get, eq_comm]

/-- Offsets below the first of a canonical memory are unlisted. -/
theorem Memory.get_below {lo : Nat} {m : Memory} (hm : Memory.wfFrom lo m = true) {k : Nat} (hk : k < lo) :
    m.get k = Memory.unlisted := by
  induction m generalizing lo with
  | nil => rfl
  | cons c m ih =>
    obtain ⟨a, b⟩ := c
    simp only [Memory.wfFrom, Bool.and_eq_true, decide_eq_true_eq] at hm
    simp only [Memory.get]
    rw [if_neg (by omega)]
    exact ih hm.2 (by omega)

/-- A byte read after a byte is stored, in a canonical memory. -/
theorem Memory.get_set_from {lo : Nat} {m : Memory} (hm : Memory.wfFrom lo m = true) (off k : Nat) (v : Byte) :
    (m.set off v).get k = if k = off then v else m.get k := by
  induction m generalizing lo with
  | nil => exact Memory.get_cons off v [] k rfl
  | cons c m ih =>
    obtain ⟨a, b⟩ := c
    have hm' := hm
    simp only [Memory.wfFrom, Bool.and_eq_true, decide_eq_true_eq] at hm
    simp only [Memory.set]
    split
    · next hlt =>
      apply Memory.get_cons
      simp only [Memory.get]
      rw [if_neg (by omega)]
      exact Memory.get_below hm.2 (by omega)
    · split
      · next heq =>
        rw [Memory.get_cons off v m k (Memory.get_below hm.2 (by omega))]
        subst heq
        simp only [Memory.get]
        by_cases hk : k = off
        · simp [hk]
        · rw [if_neg hk, if_neg hk, if_neg (by omega)]
      · next hne =>
        simp only [Memory.get]
        rw [ih hm.2]
        by_cases hk : k = off
        · rw [if_pos hk, if_pos hk, if_neg (by omega)]
        · rw [if_neg hk, if_neg hk]

theorem Memory.get_set {m : Memory} (hm : m.wf = true) (off k : Nat) (v : Byte) :
    (m.set off v).get k = if k = off then v else m.get k := Memory.get_set_from hm off k v

/-! The canonical form. -/

theorem Memory.wfFrom_mono {lo lo' : Nat} {m : Memory} (h : Memory.wfFrom lo m = true) (hl : lo' ≤ lo) :
    Memory.wfFrom lo' m = true := by
  cases m with
  | nil => rfl
  | cons c m =>
    simp only [Memory.wfFrom, Bool.and_eq_true, decide_eq_true_eq] at h ⊢
    exact ⟨⟨by omega, h.1.2⟩, h.2⟩

theorem Memory.wfFrom_cons {lo off : Nat} (v : Byte) {m : Memory} (hl : lo ≤ off) (h : Memory.wfFrom (off + 1) m = true) :
    Memory.wfFrom lo (Memory.cons off v m) = true := by
  unfold Memory.cons
  split
  · exact Memory.wfFrom_mono h (by omega)
  · next hv => simp only [Memory.wfFrom, Bool.and_eq_true, decide_eq_true_eq]; exact ⟨⟨hl, hv⟩, h⟩

theorem Memory.wfFrom_set {lo : Nat} {m : Memory} (hm : Memory.wfFrom lo m = true) {off : Nat} (hl : lo ≤ off) (v : Byte) :
    Memory.wfFrom lo (m.set off v) = true := by
  induction m generalizing lo with
  | nil => exact Memory.wfFrom_cons v hl rfl
  | cons c m ih =>
    obtain ⟨a, b⟩ := c
    have hm' := hm
    simp only [Memory.wfFrom, Bool.and_eq_true, decide_eq_true_eq] at hm
    simp only [Memory.set]
    split
    · refine Memory.wfFrom_cons v hl ?_
      simp only [Memory.wfFrom, Bool.and_eq_true, decide_eq_true_eq]
      exact ⟨⟨by omega, hm.1.2⟩, hm.2⟩
    · split
      · next heq => subst heq; exact Memory.wfFrom_cons v hl hm.2
      · simp only [Memory.wfFrom, Bool.and_eq_true, decide_eq_true_eq]
        exact ⟨hm.1, ih hm.2 (by omega)⟩

/-- Storing a byte keeps the canonical form. -/
theorem Memory.wf_set {m : Memory} (hm : m.wf = true) (off : Nat) (v : Byte) : (m.set off v).wf = true :=
  Memory.wfFrom_set hm (Nat.zero_le off) v

/-- A little-endian store keeps the canonical form. -/
theorem Memory.wf_writeLE {m : Memory} (hm : m.wf = true) (off : Nat) (v : Word) (n : Nat) :
    (m.writeLE off v n).wf = true := by
  induction n generalizing m off v with
  | zero => exact hm
  | succ n ih => exact ih (Memory.wf_set hm _ _) _ _

theorem Memory.wfFrom_filterMap (f : Nat → Byte) (lo n : Nat) :
    Memory.wfFrom lo ((List.range' lo n).filterMap fun k => if f k = Memory.unlisted then none else some (k, f k)) = true := by
  induction n generalizing lo with
  | zero => rfl
  | succ n ih =>
    rw [List.range'_succ, List.filterMap_cons]
    by_cases hk : f lo = Memory.unlisted
    · simp only [hk, if_true]
      exact Memory.wfFrom_mono (ih (lo + 1)) (by omega)
    · simp only [hk, if_false]
      simp only [Memory.wfFrom, Bool.and_eq_true, decide_eq_true_eq]
      exact ⟨⟨Nat.le_refl lo, hk⟩, ih (lo + 1)⟩

/-- The memory after construction is canonical. -/
theorem wf_initialMemory (size : Nat) (memInit : Nat → Byte) : (initialMemory size memInit).wf = true := by
  unfold initialMemory Memory.wf
  rw [List.range_eq_range']
  exact Memory.wfFrom_filterMap memInit 0 size

/-! Memory equality: canonical memories that read alike are equal. -/

theorem Memory.ext_from {lo : Nat} {m m' : Memory} (hm : Memory.wfFrom lo m = true) (hm' : Memory.wfFrom lo m' = true)
    (h : ∀ k, m.get k = m'.get k) : m = m' := by
  induction m generalizing lo m' with
  | nil =>
    cases m' with
    | nil => rfl
    | cons c m' =>
      simp only [Memory.wfFrom, Bool.and_eq_true, decide_eq_true_eq] at hm'
      exact absurd (by simpa [Memory.get] using (h c.1).symm) hm'.1.2
  | cons c m ih =>
    obtain ⟨a, b⟩ := c
    have hc := hm
    simp only [Memory.wfFrom, Bool.and_eq_true, decide_eq_true_eq] at hm
    cases m' with
    | nil => exact absurd (by simpa [Memory.get] using h a) hm.1.2
    | cons c' m' =>
      obtain ⟨a', b'⟩ := c'
      have hc' := hm'
      simp only [Memory.wfFrom, Bool.and_eq_true, decide_eq_true_eq] at hm'
      have ha : a = a' := by
        rcases Nat.lt_trichotomy a a' with hlt | heq | hgt
        · have := h a
          simp only [Memory.get, if_true] at this
          rw [if_neg (by omega), Memory.get_below hm'.2 (by omega)] at this
          exact absurd this hm.1.2
        · exact heq
        · have := h a'
          simp only [Memory.get, if_true] at this
          rw [if_neg (by omega), Memory.get_below hm.2 (by omega)] at this
          exact absurd this.symm hm'.1.2
      subst ha
      have hb : b = b' := by simpa [Memory.get] using h a
      subst hb
      congr 1
      refine ih hm.2 hm'.2 fun k => ?_
      by_cases hk : a = k
      · subst hk
        rw [Memory.get_below hm.2 (by omega), Memory.get_below hm'.2 (by omega)]
      · simpa [Memory.get, hk] using h k

/-- Equal memories are equal data. -/
theorem Memory.ext {m m' : Memory} (hm : m.wf = true) (hm' : m'.wf = true) (h : ∀ k, m.get k = m'.get k) : m = m' :=
  Memory.ext_from hm hm' h

/-! The size bound. -/

theorem Memory.mem_set {m : Memory} {off : Nat} {v : Byte} {c : Host.Cell} (h : c ∈ m.set off v) : c ∈ m ∨ c.1 = off := by
  have hcons : ∀ m' : Memory, c ∈ Memory.cons off v m' → c ∈ m' ∨ c.1 = off := by
    intro m' hc
    unfold Memory.cons at hc
    split at hc
    · exact .inl hc
    · rcases List.mem_cons.mp hc with rfl | hc
      · exact .inr rfl
      · exact .inl hc
  induction m with
  | nil => exact hcons [] h
  | cons d m ih =>
    obtain ⟨a, b⟩ := d
    simp only [Memory.set] at h
    split at h
    · exact hcons _ h
    · split at h
      · exact (hcons m h).imp_left (List.mem_cons_of_mem _)
      · rcases List.mem_cons.mp h with rfl | h
        · exact .inl List.mem_cons_self
        · exact (ih h).imp_left (List.mem_cons_of_mem _)

/-- A little-endian store inside a size lists no offset beyond it. -/
theorem Memory.inSize_writeLE {m : Memory} {size : Nat} (hm : ∀ c ∈ m, c.1 < size) {off n : Nat} (h : off + n ≤ size) (v : Word) :
    ∀ c ∈ m.writeLE off v n, c.1 < size := by
  induction n generalizing m off v with
  | zero => exact hm
  | succ n ih =>
    refine ih (fun c hc => ?_) (by omega) _
    rcases Memory.mem_set hc with hc | hc
    · exact hm c hc
    · omega

/-! The bytes of a little-endian store. -/

/-- Outside the stored bytes nothing changes; byte `i` of the value stands at offset `off + i`. -/
theorem Memory.get_writeLE {m : Memory} (hm : m.wf = true) (off : Nat) (v : Word) (n k : Nat) :
    (m.writeLE off v n).get k =
      if off ≤ k ∧ k < off + n then (v >>> (8 * (k - off))).setWidth 8 else m.get k := by
  induction n generalizing m off v with
  | zero => rw [if_neg (by omega)]; rfl
  | succ n ih =>
    rw [Memory.writeLE, ih (Memory.wf_set hm _ _), Memory.get_set hm]
    by_cases h1 : off + 1 ≤ k ∧ k < off + 1 + n
    · rw [if_pos h1, if_pos (by omega), ← BitVec.shiftRight_add]
      congr 2
      omega
    · rw [if_neg h1]
      by_cases h2 : k = off
      · subst h2; simp
      · rw [if_neg h2, if_neg (by omega)]

end Sys2Proof.Machine
end

