-- ==== Sys2Proof/Laws/Ops.lean ====
section
/-! SUPPORT. One lemma for each shared operation that says everything it can answer. -/

namespace Sys2Proof.Machine

theorem regOp_next {rd : Nat} {v : Word} {s t : State} (h : regOp rd v s = .next t) :
    t = (s.writeReg rd v).setPc s.pcNext := by
  cases h; rfl

theorem branchOp_next {c : Bool} {imm : Int} {s t : State} (h : branchOp c imm s = .next t) :
    (c = true ∧ t = s.setPc (s.pc + immWord imm)) ∨ (c = false ∧ t = s.setPc s.pcNext) := by
  cases h
  cases c
  · exact .inr ⟨rfl, rfl⟩
  · exact .inl ⟨rfl, rfl⟩

theorem linkOp_next {rd : Nat} {p : Word} {s t : State} (h : linkOp rd p s = .next t) :
    t = (s.writeReg rd s.pcNext).setPc p := by
  cases h; rfl

/-- ECALL dumps, exits, or raises UnknownSyscall (41_arith_logical.md R232). -/
theorem execEcall_next {s t : State} (h : execEcall s = .next t) :
    (s.readReg 17 = 23 ∧ t = s.presentDump.setPc s.pcNext) ∨
    (s.readReg 17 = 2 ∧ t = s.raise .exit) ∨
    (s.readReg 17 ≠ 23 ∧ s.readReg 17 ≠ 2 ∧ t = s.raise .unknownSyscall) := by
  unfold execEcall at h
  split at h
  · next h1 => cases h; exact .inl ⟨h1, rfl⟩
  · next h1 =>
    split at h
    · next h2 => cases h; exact .inr (.inl ⟨h2, rfl⟩)
    · next h2 => cases h; exact .inr (.inr ⟨h1, h2, rfl⟩)

theorem checkData_some_iff (c : Config) (ea : Int) (n : Nat) (a : Word) :
    checkData c ea n = some a ↔ InDataWindow c ea n ∧ a = wrap64 ea := by
  unfold checkData InDataWindow
  split
  · constructor
    · rintro ⟨⟩
    · rintro ⟨h, -⟩; omega
  · split
    · constructor
      · rintro ⟨⟩
      · rintro ⟨h, -⟩; omega
    · split
      · constructor
        · rintro ⟨⟩
        · rintro ⟨h, -⟩; omega
      · split
        · constructor
          · rintro ⟨⟩
          · rintro ⟨h, -⟩; omega
        · split
          · constructor
            · rintro ⟨⟩
            · rintro ⟨h, -⟩; omega
          · constructor
            · intro h
              exact ⟨by omega, (Option.some.inj h).symm⟩
            · rintro ⟨-, rfl⟩; rfl

theorem checkData_none_iff (c : Config) (ea : Int) (n : Nat) : checkData c ea n = none ↔ ¬ InDataWindow c ea n := by
  constructor
  · intro h hw
    rw [(checkData_some_iff c ea n _).mpr ⟨hw, rfl⟩] at h
    cases h
  · intro h
    cases hc : checkData c ea n with
    | none => rfl
    | some a => exact absurd ((checkData_some_iff c ea n a).mp hc).1 h

/-- A checked address is the exact sum. -/
theorem InDataWindow.toNat {c : Config} {ea : Int} {n : Nat} (h : InDataWindow c ea n) : ((wrap64 ea).toNat : Int) = ea := by
  obtain ⟨h0, h1, -⟩ := h
  rw [BitVec.toNat_ofInt]
  omega

/-- The internal offsets of a checked access lie inside the memory. -/
theorem offset_inSize {s : State} {ea : Int} {n : Nat} (h : InDataWindow s.cfg ea n) :
    s.offsetOf (wrap64 ea) + n ≤ s.cfg.memorySz.toNat := by
  have := h.toNat
  obtain ⟨h0, h1, h2, h3, h4⟩ := h
  unfold State.offsetOf
  omega

/-- A load or store raises MemoryFault with no other effect, or makes one cache access and its memory operation (42_memory_ops.md R261). -/
theorem memoryOp_next {z : AccessSize} {base : Nat} {offset : Int} {op : Word → State → State} {s t : State}
    (h : memoryOp z base offset op s = .next t) :
    (¬ InDataWindow s.cfg (s.effectiveAddress base offset) z.bytes ∧ t = s.raise .memoryFault) ∨
    (InDataWindow s.cfg (s.effectiveAddress base offset) z.bytes ∧
      t = (op (wrap64 (s.effectiveAddress base offset)) (s.cacheAccess (wrap64 (s.effectiveAddress base offset)))).setPc s.pcNext) := by
  unfold memoryOp at h
  split at h
  · next hc => cases h; exact .inl ⟨(checkData_none_iff _ _ _).mp hc, rfl⟩
  · next a hc =>
    cases h
    obtain ⟨hw, rfl⟩ := (checkData_some_iff _ _ _ _).mp hc
    exact .inr ⟨hw, rfl⟩

/-- Inside the data window a load or store completes. -/
theorem memoryOp_completes {z : AccessSize} {base : Nat} {offset : Int} (op : Word → State → State) {s : State}
    (h : InDataWindow s.cfg (s.effectiveAddress base offset) z.bytes) :
    memoryOp z base offset op s =
      .next ((op (wrap64 (s.effectiveAddress base offset)) (s.cacheAccess (wrap64 (s.effectiveAddress base offset)))).setPc s.pcNext) := by
  unfold memoryOp
  rw [(checkData_some_iff _ _ _ _).mpr ⟨h, rfl⟩]

/-- Outside it MemoryFault is taken. -/
theorem memoryOp_raises {z : AccessSize} {base : Nat} {offset : Int} (op : Word → State → State) {s : State}
    (h : ¬ InDataWindow s.cfg (s.effectiveAddress base offset) z.bytes) :
    memoryOp z base offset op s = .next (s.raise .memoryFault) := by
  unfold memoryOp
  rw [(checkData_none_iff _ _ _).mpr h]

/-- A load, from `memoryOp_next` with its operation written out. -/
theorem loadOp_next {z : AccessSize} {ext : Word → Word} {base rd : Nat} {offset : Int} {s t : State}
    (h : loadOp z ext base rd offset s = .next t) :
    (¬ InDataWindow s.cfg (s.effectiveAddress base offset) z.bytes ∧ t = s.raise .memoryFault) ∨
    (InDataWindow s.cfg (s.effectiveAddress base offset) z.bytes ∧
      t = ((s.cacheAccess (wrap64 (s.effectiveAddress base offset))).writeReg rd
        (ext (s.memRead (wrap64 (s.effectiveAddress base offset)) z))).setPc s.pcNext) := by
  have hr : ∀ a, (s.cacheAccess a).memRead a z = s.memRead a z := by
    intro a; unfold State.memRead State.offsetOf; simp
  rcases memoryOp_next h with h | ⟨hw, rfl⟩
  · exact .inl h
  · exact .inr ⟨hw, by simp only [hr]⟩

/-- A store, likewise. -/
theorem storeOp_next {z : AccessSize} {base rs2 : Nat} {offset : Int} {s t : State}
    (h : storeOp z base rs2 offset s = .next t) :
    (¬ InDataWindow s.cfg (s.effectiveAddress base offset) z.bytes ∧ t = s.raise .memoryFault) ∨
    (InDataWindow s.cfg (s.effectiveAddress base offset) z.bytes ∧
      t = ((s.cacheAccess (wrap64 (s.effectiveAddress base offset))).memWrite (wrap64 (s.effectiveAddress base offset)) z
        (s.readReg rs2)).setPc s.pcNext) :=
  memoryOp_next h

/-- Fetch accepts a pc exactly where the three checks pass (40_dispatch.md R151, R153, R154). -/
theorem fetch_ok_iff (s : State) (r : Record) :
    fetch s = .ok r ↔ s.pcInWindow = true ∧ s.pcMisaligned = false ∧ s.prog[s.fetchIndex]? = some r := by
  unfold fetch
  cases hw : s.pcInWindow
  · simp
  · cases hm : s.pcMisaligned
    · cases hp : s.prog[s.fetchIndex]? <;> simp
    · simp

/-- The record of the instruction that a record stands for is that record. -/
theorem record_of_instr {r : Record} {i : Instr} (h : r.instr = .ok i) : i.record = r := by
  obtain ⟨op, o⟩ := r
  cases op with
  | other c => cases h
  | known t =>
    simp only [Record.instr] at h
    cases o <;> cases t <;> simp [Tag.instr?, Operands.asRRR, Operands.asRRI, Operands.asRI, Operands.asROR, Operands.asNone] at h <;>
      subst h <;> rfl

/-- One step: no step when halted, InstructionFault, or the instruction at the pc (40_dispatch.md R150). -/
theorem step_next {s t : State} (h : step s = .next t) :
    s.status = .running ∧
      ((∃ c, fetchInstr s = .error c ∧ t = (s.present none).raise .instructionFault) ∨
       (∃ i, fetchInstr s = .ok i ∧ exec i (s.present (some i.record)) = .next t)) := by
  unfold step at h
  split at h
  · cases h
  · next hr =>
    refine ⟨hr, ?_⟩
    split at h
    · next c hc => cases h; exact .inl ⟨c, hc, rfl⟩
    · next i hi => exact .inr ⟨i, hi, h⟩

end Sys2Proof.Machine
end

