-- ==== Sys2Proof/Laws/Exec.lean ====
section
/-! SUPPORT. What executing an instruction can do, said once for all instructions: later proofs about every instruction split on this and on nothing else. -/

namespace Sys2Proof.Machine

/-- A completed load or store: the register write or the memory write that follows its cache access. -/
def AccessEffect (s : State) (z : AccessSize) (a : Word) (t : State) : Prop :=
  (∃ rd v, t = ((s.cacheAccess a).writeReg rd v).setPc s.pcNext) ∨
  (∃ rs2, t = ((s.cacheAccess a).memWrite a z (s.readReg rs2)).setPc s.pcNext)

/-- An instruction outside the memory group writes at most one register and the pc (a branch writes register 0, that is, none); ECALL dumps or raises; an instruction of the memory group raises MemoryFault or makes its one access. -/
theorem exec_next {i : Instr} {s t : State} (h : exec i s = .next t) :
    (i ≠ .ecall ∧ i.group ≠ .memory ∧ ∃ rd v p, t = (s.writeReg rd v).setPc p) ∨
    (i = .ecall ∧
      ((s.readReg 17 = 23 ∧ t = s.presentDump.setPc s.pcNext) ∨
       (s.readReg 17 = 2 ∧ t = s.raise .exit) ∨
       (s.readReg 17 ≠ 23 ∧ s.readReg 17 ≠ 2 ∧ t = s.raise .unknownSyscall))) ∨
    (i.group = .memory ∧ ∃ (z : AccessSize) (base : Nat) (offset : Int),
      (¬ InDataWindow s.cfg (s.effectiveAddress base offset) z.bytes ∧ t = s.raise .memoryFault) ∨
      (InDataWindow s.cfg (s.effectiveAddress base offset) z.bytes ∧
        AccessEffect s z (wrap64 (s.effectiveAddress base offset)) t)) := by
  have reg : ∀ {rd : Nat} {v : Word}, regOp rd v s = .next t → ∃ rd v p, t = (s.writeReg rd v).setPc p :=
    fun h => ⟨_, _, _, regOp_next h⟩
  have link : ∀ {rd : Nat} {p : Word}, linkOp rd p s = .next t → ∃ rd v p, t = (s.writeReg rd v).setPc p :=
    fun h => ⟨_, _, _, linkOp_next h⟩
  have branch : ∀ {c : Bool} {imm : Int}, branchOp c imm s = .next t → ∃ rd v p, t = (s.writeReg rd v).setPc p := by
    intro c imm h
    rcases branchOp_next h with ⟨-, h⟩ | ⟨-, h⟩
    · exact ⟨0, 0, _, by rw [writeReg_zero]; exact h⟩
    · exact ⟨0, 0, _, by rw [writeReg_zero]; exact h⟩
  have load : ∀ {z : AccessSize} {ext : Word → Word} {base rd : Nat} {offset : Int}, loadOp z ext base rd offset s = .next t →
      ∃ (z : AccessSize) (base : Nat) (offset : Int),
        (¬ InDataWindow s.cfg (s.effectiveAddress base offset) z.bytes ∧ t = s.raise .memoryFault) ∨
        (InDataWindow s.cfg (s.effectiveAddress base offset) z.bytes ∧
          AccessEffect s z (wrap64 (s.effectiveAddress base offset)) t) := by
    intro z ext base rd offset h
    exact ⟨z, base, offset, (loadOp_next h).imp_right fun ⟨hw, ht⟩ => ⟨hw, .inl ⟨_, _, ht⟩⟩⟩
  have store : ∀ {z : AccessSize} {base rs2 : Nat} {offset : Int}, storeOp z base rs2 offset s = .next t →
      ∃ (z : AccessSize) (base : Nat) (offset : Int),
        (¬ InDataWindow s.cfg (s.effectiveAddress base offset) z.bytes ∧ t = s.raise .memoryFault) ∨
        (InDataWindow s.cfg (s.effectiveAddress base offset) z.bytes ∧
          AccessEffect s z (wrap64 (s.effectiveAddress base offset)) t) := by
    intro z base rs2 offset h
    exact ⟨z, base, offset, (storeOp_next h).imp_right fun ⟨hw, ht⟩ => ⟨hw, .inr ⟨_, ht⟩⟩⟩
  cases i
  case ecall => exact .inr (.inl ⟨rfl, execEcall_next h⟩)
  case lb | lh | lw | ld | lbu | lhu | lwu => exact .inr (.inr ⟨rfl, load h⟩)
  case sb | sh | sw | sd => exact .inr (.inr ⟨rfl, store h⟩)
  case beq | bne | blt | bge | bltu | bgeu => exact .inl ⟨nofun, nofun, branch h⟩
  case jal | jalr => exact .inl ⟨nofun, nofun, link h⟩
  all_goals exact .inl ⟨nofun, nofun, reg h⟩

end Sys2Proof.Machine
end

