-- ==== Sys2Proof/Laws/PerInstr.lean ====
section
/-! SUPPORT. Statements made once per instruction (LAWS.json). RecordRoundTrip: the record of an instruction stands for that instruction, with every register number and every immediate, in range or not (30_encoding.md R121, R127). -/

namespace Sys2Proof.Laws

def RecordRoundTrip.Statement (i : Instr) : Prop := i.record.instr = .ok i

theorem RecordRoundTrip.add (a b c : Nat) : RecordRoundTrip.Statement (.add a b c) := rfl
theorem RecordRoundTrip.sub (a b c : Nat) : RecordRoundTrip.Statement (.sub a b c) := rfl
theorem RecordRoundTrip.and (a b c : Nat) : RecordRoundTrip.Statement (.and a b c) := rfl
theorem RecordRoundTrip.or (a b c : Nat) : RecordRoundTrip.Statement (.or a b c) := rfl
theorem RecordRoundTrip.xor (a b c : Nat) : RecordRoundTrip.Statement (.xor a b c) := rfl
theorem RecordRoundTrip.sll (a b c : Nat) : RecordRoundTrip.Statement (.sll a b c) := rfl
theorem RecordRoundTrip.srl (a b c : Nat) : RecordRoundTrip.Statement (.srl a b c) := rfl
theorem RecordRoundTrip.sra (a b c : Nat) : RecordRoundTrip.Statement (.sra a b c) := rfl
theorem RecordRoundTrip.addi (a b : Nat) (n : Int) : RecordRoundTrip.Statement (.addi a b n) := rfl
theorem RecordRoundTrip.andi (a b : Nat) (n : Int) : RecordRoundTrip.Statement (.andi a b n) := rfl
theorem RecordRoundTrip.ori (a b : Nat) (n : Int) : RecordRoundTrip.Statement (.ori a b n) := rfl
theorem RecordRoundTrip.xori (a b : Nat) (n : Int) : RecordRoundTrip.Statement (.xori a b n) := rfl
theorem RecordRoundTrip.slli (a b : Nat) (n : Int) : RecordRoundTrip.Statement (.slli a b n) := rfl
theorem RecordRoundTrip.srli (a b : Nat) (n : Int) : RecordRoundTrip.Statement (.srli a b n) := rfl
theorem RecordRoundTrip.srai (a b : Nat) (n : Int) : RecordRoundTrip.Statement (.srai a b n) := rfl
theorem RecordRoundTrip.addw (a b c : Nat) : RecordRoundTrip.Statement (.addw a b c) := rfl
theorem RecordRoundTrip.subw (a b c : Nat) : RecordRoundTrip.Statement (.subw a b c) := rfl
theorem RecordRoundTrip.sllw (a b c : Nat) : RecordRoundTrip.Statement (.sllw a b c) := rfl
theorem RecordRoundTrip.srlw (a b c : Nat) : RecordRoundTrip.Statement (.srlw a b c) := rfl
theorem RecordRoundTrip.sraw (a b c : Nat) : RecordRoundTrip.Statement (.sraw a b c) := rfl
theorem RecordRoundTrip.addiw (a b : Nat) (n : Int) : RecordRoundTrip.Statement (.addiw a b n) := rfl
theorem RecordRoundTrip.slliw (a b : Nat) (n : Int) : RecordRoundTrip.Statement (.slliw a b n) := rfl
theorem RecordRoundTrip.srliw (a b : Nat) (n : Int) : RecordRoundTrip.Statement (.srliw a b n) := rfl
theorem RecordRoundTrip.sraiw (a b : Nat) (n : Int) : RecordRoundTrip.Statement (.sraiw a b n) := rfl
theorem RecordRoundTrip.lui (a : Nat) (n : Int) : RecordRoundTrip.Statement (.lui a n) := rfl
theorem RecordRoundTrip.ecall : RecordRoundTrip.Statement .ecall := rfl
theorem RecordRoundTrip.lb (a b : Nat) (n : Int) : RecordRoundTrip.Statement (.lb a b n) := rfl
theorem RecordRoundTrip.lh (a b : Nat) (n : Int) : RecordRoundTrip.Statement (.lh a b n) := rfl
theorem RecordRoundTrip.lw (a b : Nat) (n : Int) : RecordRoundTrip.Statement (.lw a b n) := rfl
theorem RecordRoundTrip.ld (a b : Nat) (n : Int) : RecordRoundTrip.Statement (.ld a b n) := rfl
theorem RecordRoundTrip.lbu (a b : Nat) (n : Int) : RecordRoundTrip.Statement (.lbu a b n) := rfl
theorem RecordRoundTrip.lhu (a b : Nat) (n : Int) : RecordRoundTrip.Statement (.lhu a b n) := rfl
theorem RecordRoundTrip.lwu (a b : Nat) (n : Int) : RecordRoundTrip.Statement (.lwu a b n) := rfl
theorem RecordRoundTrip.sb (a b : Nat) (n : Int) : RecordRoundTrip.Statement (.sb a b n) := rfl
theorem RecordRoundTrip.sh (a b : Nat) (n : Int) : RecordRoundTrip.Statement (.sh a b n) := rfl
theorem RecordRoundTrip.sw (a b : Nat) (n : Int) : RecordRoundTrip.Statement (.sw a b n) := rfl
theorem RecordRoundTrip.sd (a b : Nat) (n : Int) : RecordRoundTrip.Statement (.sd a b n) := rfl
theorem RecordRoundTrip.slt (a b c : Nat) : RecordRoundTrip.Statement (.slt a b c) := rfl
theorem RecordRoundTrip.sltu (a b c : Nat) : RecordRoundTrip.Statement (.sltu a b c) := rfl
theorem RecordRoundTrip.slti (a b : Nat) (n : Int) : RecordRoundTrip.Statement (.slti a b n) := rfl
theorem RecordRoundTrip.sltiu (a b : Nat) (n : Int) : RecordRoundTrip.Statement (.sltiu a b n) := rfl
theorem RecordRoundTrip.beq (a b : Nat) (n : Int) : RecordRoundTrip.Statement (.beq a b n) := rfl
theorem RecordRoundTrip.bne (a b : Nat) (n : Int) : RecordRoundTrip.Statement (.bne a b n) := rfl
theorem RecordRoundTrip.blt (a b : Nat) (n : Int) : RecordRoundTrip.Statement (.blt a b n) := rfl
theorem RecordRoundTrip.bge (a b : Nat) (n : Int) : RecordRoundTrip.Statement (.bge a b n) := rfl
theorem RecordRoundTrip.bltu (a b : Nat) (n : Int) : RecordRoundTrip.Statement (.bltu a b n) := rfl
theorem RecordRoundTrip.bgeu (a b : Nat) (n : Int) : RecordRoundTrip.Statement (.bgeu a b n) := rfl
theorem RecordRoundTrip.auipc (a : Nat) (n : Int) : RecordRoundTrip.Statement (.auipc a n) := rfl
theorem RecordRoundTrip.jal (a : Nat) (n : Int) : RecordRoundTrip.Statement (.jal a n) := rfl
theorem RecordRoundTrip.jalr (a b : Nat) (n : Int) : RecordRoundTrip.Statement (.jalr a b n) := rfl

end Sys2Proof.Laws
end

