-- ==== Sys2Proof/Machine/Observe.lean ====
section
/-! DEFINITION. The output ports (10_state.md R50 to R52) as functions of the state, and the reporter's hit rate (20_memory.md R91). They change no state. -/

namespace Sys2Proof.Machine

/-- The 3-bit code of the run status (10_state.md R48, 60_exceptions.md R400). -/
def Status.code : Status → BitVec 3
  | .running => 0
  | .halted .instructionFault => 1
  | .halted .memoryFault => 2
  | .halted .exit => 3
  | .halted .unknownSyscall => 4

/-- What the block presents after every step and at halt (R50, R52). -/
structure Observation where
  regs : List Word
  pcOut : Word
  statAccesses : Word
  statMisses : Word
  status : BitVec 3
  trace : Trace
  dump : Option Dump
  deriving DecidableEq, Repr

/-- The observation points of a state. -/
def State.observe (s : State) : Observation where
  regs := s.regSnapshot
  pcOut := s.pc
  statAccesses := s.accesses
  statMisses := s.misses
  status := s.status.code
  trace := s.trace
  dump := s.dump

/-- The hit rate the caller computes from the statistics (R91): 0 when there was no access. -/
def State.hitRate (s : State) : Rat :=
  if s.accesses = 0 then 0 else ((s.accesses.toNat : Rat) - s.misses.toNat) / s.accesses.toNat

end Sys2Proof.Machine
end

