-- ==== Sys2Proof/Tests/Slice0.lean ====
section
/-! SUPPORT. The model's own tests: the checks of WellFormed, one word of each instruction written out from 30_encoding.md R134 and R138, vectors of 95_test_vectors.md (their numbers in the names), and for each statement with hypotheses a state and operands that meet them. -/

namespace Sys2Proof.Tests

open Sys2Proof.Machine Sys2Proof.Claims

/-! ## WellFormed refuses an ill-formed operand of each kind. -/

theorem test_wf_add : (Instr.add 31 0 31).wf = true := by decide
theorem test_illformed_register : (Instr.add 32 0 0).wf = false := by decide
theorem test_illformed_source : (Instr.sw 0 32 0).wf = false := by decide
theorem test_illformed_imm12_high : (Instr.addi 1 2 2048).wf = false := by decide
theorem test_illformed_imm12_low : (Instr.lw 1 2 (-2049)).wf = false := by decide
theorem test_illformed_branch_range : (Instr.beq 1 2 4096).wf = false := by decide
theorem test_illformed_branch_odd : (Instr.beq 1 2 5).wf = false := by decide
theorem test_illformed_jump_range : (Instr.jal 1 1048576).wf = false := by decide
theorem test_illformed_jump_odd : (Instr.jal 1 7).wf = false := by decide
theorem test_illformed_imm20 : (Instr.lui 1 524288).wf = false := by decide
theorem test_illformed_shamt6 : (Instr.slli 1 2 64).wf = false := by decide
theorem test_illformed_shamt6_negative : (Instr.srai 1 2 (-1)).wf = false := by decide
theorem test_illformed_shamt5 : (Instr.sraiw 1 2 32).wf = false := by decide

/-! ## Each instruction's word, written out from its row of R138 in the format of R134. -/

theorem test_decode_add : decodeTableWord 32 0b0000000_01010_10001_000_00011_0110011 = some (.add 3 17 10) := by decide
theorem test_decode_sub : decodeTableWord 32 0b0100000_10001_10110_000_00100_0110011 = some (.sub 4 22 17) := by decide
theorem test_decode_and : decodeTableWord 32 0b0000000_11000_11011_111_00101_0110011 = some (.and 5 27 24) := by decide
theorem test_decode_or : decodeTableWord 32 0b0000000_11111_00000_110_00110_0110011 = some (.or 6 0 31) := by decide
theorem test_decode_xor : decodeTableWord 32 0b0000000_00110_00101_100_00111_0110011 = some (.xor 7 5 6) := by decide
theorem test_decode_sll : decodeTableWord 32 0b0000000_01101_01010_001_01000_0110011 = some (.sll 8 10 13) := by decide
theorem test_decode_srl : decodeTableWord 32 0b0000000_10100_01111_101_01001_0110011 = some (.srl 9 15 20) := by decide
theorem test_decode_sra : decodeTableWord 32 0b0100000_11011_10100_101_01010_0110011 = some (.sra 10 20 27) := by decide
theorem test_decode_addi : decodeTableWord 32 0b101010101010_11001_000_01011_0010011 = some (.addi 11 25 (-1366)) := by decide
theorem test_decode_andi : decodeTableWord 32 0b101010101010_11110_111_01100_0010011 = some (.andi 12 30 (-1366)) := by decide
theorem test_decode_ori : decodeTableWord 32 0b101010101010_00011_110_01101_0010011 = some (.ori 13 3 (-1366)) := by decide
theorem test_decode_xori : decodeTableWord 32 0b101010101010_01000_100_01110_0010011 = some (.xori 14 8 (-1366)) := by decide
theorem test_decode_slli : decodeTableWord 32 0b000000_101001_01101_001_01111_0010011 = some (.slli 15 13 41) := by decide
theorem test_decode_srli : decodeTableWord 32 0b000000_101001_10010_101_10000_0010011 = some (.srli 16 18 41) := by decide
theorem test_decode_srai : decodeTableWord 32 0b010000_101001_10111_101_10001_0010011 = some (.srai 17 23 41) := by decide
theorem test_decode_addw : decodeTableWord 32 0b0000000_10011_11100_000_10010_0111011 = some (.addw 18 28 19) := by decide
theorem test_decode_subw : decodeTableWord 32 0b0100000_11010_00001_000_10011_0111011 = some (.subw 19 1 26) := by decide
theorem test_decode_sllw : decodeTableWord 32 0b0000000_00001_00110_001_10100_0111011 = some (.sllw 20 6 1) := by decide
theorem test_decode_srlw : decodeTableWord 32 0b0000000_01000_01011_101_10101_0111011 = some (.srlw 21 11 8) := by decide
theorem test_decode_sraw : decodeTableWord 32 0b0100000_01111_10000_101_10110_0111011 = some (.sraw 22 16 15) := by decide
theorem test_decode_addiw : decodeTableWord 32 0b101010101010_10101_000_10111_0011011 = some (.addiw 23 21 (-1366)) := by decide
theorem test_decode_slliw : decodeTableWord 32 0b0000000_10101_11010_001_11000_0011011 = some (.slliw 24 26 21) := by decide
theorem test_decode_srliw : decodeTableWord 32 0b0000000_10101_11111_101_11001_0011011 = some (.srliw 25 31 21) := by decide
theorem test_decode_sraiw : decodeTableWord 32 0b0100000_10101_00100_101_11010_0011011 = some (.sraiw 26 4 21) := by decide
theorem test_decode_lui : decodeTableWord 32 0b10101010101010101011_11011_0110111 = some (.lui 27 (-349525)) := by decide
theorem test_decode_ecall : decodeTableWord 32 0b00000000000000000000000001110011 = some (.ecall) := by decide
theorem test_decode_lb : decodeTableWord 32 0b010101010101_11101_000_10011_0000011 = some (.lb 29 19 1365) := by decide
theorem test_decode_lh : decodeTableWord 32 0b010101010101_11110_001_11000_0000011 = some (.lh 30 24 1365) := by decide
theorem test_decode_lw : decodeTableWord 32 0b010101010101_11111_010_11101_0000011 = some (.lw 31 29 1365) := by decide
theorem test_decode_ld : decodeTableWord 32 0b010101010101_00000_011_00010_0000011 = some (.ld 0 2 1365) := by decide
theorem test_decode_lbu : decodeTableWord 32 0b010101010101_00001_100_00111_0000011 = some (.lbu 1 7 1365) := by decide
theorem test_decode_lhu : decodeTableWord 32 0b010101010101_00010_101_01100_0000011 = some (.lhu 2 12 1365) := by decide
theorem test_decode_lwu : decodeTableWord 32 0b010101010101_00011_110_10001_0000011 = some (.lwu 3 17 1365) := by decide
theorem test_decode_sb : decodeTableWord 32 0b1011101_10110_00100_000_01010_0100011 = some (.sb 4 22 (-1110)) := by decide
theorem test_decode_sh : decodeTableWord 32 0b1011101_11011_00101_001_01010_0100011 = some (.sh 5 27 (-1110)) := by decide
theorem test_decode_sw : decodeTableWord 32 0b1011101_00000_00110_010_01010_0100011 = some (.sw 6 0 (-1110)) := by decide
theorem test_decode_sd : decodeTableWord 32 0b1011101_00101_00111_011_01010_0100011 = some (.sd 7 5 (-1110)) := by decide
theorem test_decode_slt : decodeTableWord 32 0b0000000_01101_01010_010_01000_0110011 = some (.slt 8 10 13) := by decide
theorem test_decode_sltu : decodeTableWord 32 0b0000000_10100_01111_011_01001_0110011 = some (.sltu 9 15 20) := by decide
theorem test_decode_slti : decodeTableWord 32 0b101010101010_10100_010_01010_0010011 = some (.slti 10 20 (-1366)) := by decide
theorem test_decode_sltiu : decodeTableWord 32 0b101010101010_11001_011_01011_0010011 = some (.sltiu 11 25 (-1366)) := by decide
theorem test_decode_beq : decodeTableWord 32 0b1101010_11110_01100_000_10110_1100011 = some (.beq 12 30 (-2730)) := by decide
theorem test_decode_bne : decodeTableWord 32 0b1101010_00011_01101_001_10110_1100011 = some (.bne 13 3 (-2730)) := by decide
theorem test_decode_blt : decodeTableWord 32 0b1101010_01000_01110_100_10110_1100011 = some (.blt 14 8 (-2730)) := by decide
theorem test_decode_bge : decodeTableWord 32 0b1101010_01101_01111_101_10110_1100011 = some (.bge 15 13 (-2730)) := by decide
theorem test_decode_bltu : decodeTableWord 32 0b1101010_10010_10000_110_10110_1100011 = some (.bltu 16 18 (-2730)) := by decide
theorem test_decode_bgeu : decodeTableWord 32 0b1101010_10111_10001_111_10110_1100011 = some (.bgeu 17 23 (-2730)) := by decide
theorem test_decode_auipc : decodeTableWord 32 0b10101010101010101011_10010_0010111 = some (.auipc 18 (-349525)) := by decide
theorem test_decode_jal : decodeTableWord 32 0b11010101010001010101_10011_1101111 = some (.jal 19 (-699052)) := by decide
theorem test_decode_jalr : decodeTableWord 32 0b101010101010_00110_000_10100_1100111 = some (.jalr 20 6 (-1366)) := by decide
theorem test_encode_bne : encode (.bne 5 0 (-8)) = 0xFE029CE3 := by decide
theorem test_encode_sd : encode (.sd 1 4 (-8)) = 0xFE40BC23 := by decide
/-- R137: FENCE, EBREAK and a shift of 32 in SLLIW's place match no row. -/
theorem test_decode_unmatched :
    decodeTableWord 32 0x0000000F = none ∧ decodeTableWord 32 0x00100073 = none ∧ decodeTableWord 32 0x0200101B = none := by decide

/-! ## Vectors of 95_test_vectors.md: one step under CFG from the listed registers and bytes, every other register and byte 0. -/

/-- CFG with the listed registers and bytes (by architectural address), the pc, and the instruction stored at the pc. -/
def start (regs : List (Nat × Word)) (bytes : List (Nat × Byte)) (pc : Word) (i : Instr) : State :=
  ((regs.foldl (fun (s : State) (r : Nat × Word) => s.writeReg r.1 r.2)
    { State.reset with pc := pc, mem := bytes.foldl (fun (m : Memory) (b : Nat × Byte) => Memory.set (b.1 - 0x2000) b.2 m) [] }).placeRecord i.record)

/-- The state after one step. -/
def next (o : Outcome) : Option State :=
  match o with
  | .next t => some t
  | _ => none

/-- After one step from pc 0x1000: register `k`, the pc, the status and the counters. -/
def regAfter (regs : List (Nat × Word)) (bytes : List (Nat × Byte)) (i : Instr) (k : Nat) : Option (Word × Word × Status × Word × Word) :=
  (next (step (start regs bytes 0x1000 i))).map fun t => (t.readReg k, t.pc, t.status, t.accesses, t.misses)

theorem test_A2_add : regAfter [(1, 0xffffffffffffffff), (2, 0x1)] [] (.add 3 1 2) 3 = some (0x0, 0x1004, .running, 0, 0) := by decide
theorem test_A4_add : regAfter [(1, 0x7)] [] (.add 1 1 1) 1 = some (0xe, 0x1004, .running, 0, 0) := by decide
theorem test_A6_sub : regAfter [(1, 0x8000000000000000), (2, 0x1)] [] (.sub 3 1 2) 3 = some (0x7fffffffffffffff, 0x1004, .running, 0, 0) := by decide
theorem test_A7_and : regAfter [(1, 0xf0f0), (2, 0xff00)] [] (.and 3 1 2) 3 = some (0xf000, 0x1004, .running, 0, 0) := by decide
theorem test_A8_or : regAfter [(1, 0xf0f0), (2, 0xff00)] [] (.or 3 1 2) 3 = some (0xfff0, 0x1004, .running, 0, 0) := by decide
theorem test_A9_xor : regAfter [(1, 0xf0f0), (2, 0xff00)] [] (.xor 3 1 2) 3 = some (0xff0, 0x1004, .running, 0, 0) := by decide
theorem test_A10_sll : regAfter [(1, 0x1), (2, 0x41)] [] (.sll 3 1 2) 3 = some (0x2, 0x1004, .running, 0, 0) := by decide
theorem test_A12_srl : regAfter [(1, 0x8000000000000000), (2, 0x3f)] [] (.srl 3 1 2) 3 = some (0x1, 0x1004, .running, 0, 0) := by decide
theorem test_A13_sra : regAfter [(1, 0x8000000000000000), (2, 0x3f)] [] (.sra 3 1 2) 3 = some (0xffffffffffffffff, 0x1004, .running, 0, 0) := by decide
theorem test_A14_sra : regAfter [(1, 0x8000000000000000), (2, 0x40)] [] (.sra 3 1 2) 3 = some (0x8000000000000000, 0x1004, .running, 0, 0) := by decide
theorem test_A15_addi : regAfter [(1, 0x0)] [] (.addi 3 1 (-1)) 3 = some (0xffffffffffffffff, 0x1004, .running, 0, 0) := by decide
theorem test_A17_andi : regAfter [(1, 0x123456789abcdeff)] [] (.andi 3 1 (-16)) 3 = some (0x123456789abcdef0, 0x1004, .running, 0, 0) := by decide
theorem test_A18_ori : regAfter [(1, 0x1)] [] (.ori 3 1 (-2048)) 3 = some (0xfffffffffffff801, 0x1004, .running, 0, 0) := by decide
theorem test_A19_xori : regAfter [(1, 0xf)] [] (.xori 3 1 (-1)) 3 = some (0xfffffffffffffff0, 0x1004, .running, 0, 0) := by decide
theorem test_A20_slli : regAfter [(1, 0x3)] [] (.slli 3 1 63) 3 = some (0x8000000000000000, 0x1004, .running, 0, 0) := by decide
theorem test_A21_slli : regAfter [(1, 0x5)] [] (.slli 3 1 64) 3 = some (0x5, 0x1004, .running, 0, 0) := by decide
theorem test_A22_srli : regAfter [(1, 0xffffffffffffffff)] [] (.srli 3 1 1) 3 = some (0x7fffffffffffffff, 0x1004, .running, 0, 0) := by decide
theorem test_A23_srai : regAfter [(1, 0xfffffffffffffffe)] [] (.srai 3 1 1) 3 = some (0xffffffffffffffff, 0x1004, .running, 0, 0) := by decide
theorem test_A24_addw : regAfter [(1, 0x7fffffff), (2, 0x1)] [] (.addw 3 1 2) 3 = some (0xffffffff80000000, 0x1004, .running, 0, 0) := by decide
theorem test_A25_addw : regAfter [(1, 0xffffffff00000001), (2, 0x100000001)] [] (.addw 3 1 2) 3 = some (0x2, 0x1004, .running, 0, 0) := by decide
theorem test_A27_subw : regAfter [(1, 0x80000000), (2, 0x1)] [] (.subw 3 1 2) 3 = some (0x7fffffff, 0x1004, .running, 0, 0) := by decide
theorem test_A29_sllw : regAfter [(1, 0x100000003), (2, 0x20)] [] (.sllw 3 1 2) 3 = some (0x3, 0x1004, .running, 0, 0) := by decide
theorem test_A28_sllw : regAfter [(1, 0x1), (2, 0x1f)] [] (.sllw 3 1 2) 3 = some (0xffffffff80000000, 0x1004, .running, 0, 0) := by decide
theorem test_A30_srlw : regAfter [(1, 0x80000000), (2, 0x4)] [] (.srlw 3 1 2) 3 = some (0x8000000, 0x1004, .running, 0, 0) := by decide
theorem test_A31_srlw : regAfter [(1, 0x80000000), (2, 0x0)] [] (.srlw 3 1 2) 3 = some (0xffffffff80000000, 0x1004, .running, 0, 0) := by decide
theorem test_A32_sraw : regAfter [(1, 0x80000000), (2, 0x4)] [] (.sraw 3 1 2) 3 = some (0xfffffffff8000000, 0x1004, .running, 0, 0) := by decide
theorem test_A33_addiw : regAfter [(1, 0xffffffff)] [] (.addiw 3 1 0) 3 = some (0xffffffffffffffff, 0x1004, .running, 0, 0) := by decide
theorem test_A35_slliw : regAfter [(1, 0x1)] [] (.slliw 3 1 31) 3 = some (0xffffffff80000000, 0x1004, .running, 0, 0) := by decide
theorem test_A36_srliw : regAfter [(1, 0xffffffff)] [] (.srliw 3 1 31) 3 = some (0x1, 0x1004, .running, 0, 0) := by decide
theorem test_A37_sraiw : regAfter [(1, 0x80000000)] [] (.sraiw 3 1 31) 3 = some (0xffffffffffffffff, 0x1004, .running, 0, 0) := by decide
theorem test_A39_lui : regAfter [] [] (.lui 5 (-1)) 5 = some (0xfffffffffffff000, 0x1004, .running, 0, 0) := by decide
theorem test_A40_lui : regAfter [] [] (.lui 5 (-524288)) 5 = some (0xffffffff80000000, 0x1004, .running, 0, 0) := by decide
theorem test_F1_slt : regAfter [(1, 0xffffffffffffffff), (2, 0x1)] [] (.slt 3 1 2) 3 = some (0x1, 0x1004, .running, 0, 0) := by decide
theorem test_F2_sltu : regAfter [(1, 0xffffffffffffffff), (2, 0x1)] [] (.sltu 3 1 2) 3 = some (0x0, 0x1004, .running, 0, 0) := by decide
theorem test_F5_slti : regAfter [(1, 0xfffffffffffffffe)] [] (.slti 3 1 (-1)) 3 = some (0x1, 0x1004, .running, 0, 0) := by decide
theorem test_F6_sltiu : regAfter [(1, 0x5)] [] (.sltiu 3 1 (-1)) 3 = some (0x1, 0x1004, .running, 0, 0) := by decide
theorem test_F17_auipc : regAfter [] [] (.auipc 5 1) 5 = some (0x2000, 0x1004, .running, 0, 0) := by decide
theorem test_F18_auipc : regAfter [] [] (.auipc 5 (-1)) 5 = some (0x0, 0x1004, .running, 0, 0) := by decide
theorem test_A3_add_x0 : regAfter [(1, 5), (2, 6)] [] (.add 0 1 2) 0 = some (0, 0x1004, .running, 0, 0) := by decide
theorem test_M2_lw : regAfter [(1, 0x2000)] [(0x2000, 0xff), (0x2001, 0xff), (0x2002, 0xff), (0x2003, 0xff)] (.lw 1 3 0) 3 = some (0xffffffffffffffff, 0x1004, .running, 1, 1) := by decide
theorem test_M3_lwu : regAfter [(1, 0x2000)] [(0x2000, 0xff), (0x2001, 0xff), (0x2002, 0xff), (0x2003, 0xff)] (.lwu 1 3 0) 3 = some (0xffffffff, 0x1004, .running, 1, 1) := by decide
theorem test_M4_lb : regAfter [(1, 0x2000)] [(0x2001, 0x80)] (.lb 1 3 1) 3 = some (0xffffffffffffff80, 0x1004, .running, 1, 1) := by decide
theorem test_M5_lbu : regAfter [(1, 0x2000)] [(0x2001, 0x80)] (.lbu 1 3 1) 3 = some (0x80, 0x1004, .running, 1, 1) := by decide
theorem test_M6_lh : regAfter [(1, 0x2000)] [(0x2000, 0x34), (0x2001, 0x92)] (.lh 1 3 0) 3 = some (0xffffffffffff9234, 0x1004, .running, 1, 1) := by decide
theorem test_M7_lhu : regAfter [(1, 0x2000)] [(0x2000, 0x34), (0x2001, 0x92)] (.lhu 1 3 0) 3 = some (0x9234, 0x1004, .running, 1, 1) := by decide
theorem test_M8_ld : regAfter [(1, 0x2000)] [(0x2008, 0x11), (0x2009, 0x22), (0x200a, 0x33), (0x200b, 0x44), (0x200c, 0x55), (0x200d, 0x66), (0x200e, 0x77), (0x200f, 0x88)] (.ld 1 3 8) 3 = some (0x8877665544332211, 0x1004, .running, 1, 1) := by decide
theorem test_M9_ld : regAfter [(1, 0x2000)] [] (.ld 1 3 4088) 3 = some (0x0, 0x1004, .running, 1, 1) := by decide
theorem test_M16_lw : regAfter [(1, 0x2000)] [(0x2001, 0x78), (0x2002, 0x56), (0x2003, 0x34), (0x2004, 0x12)] (.lw 1 3 1) 3 = some (0x12345678, 0x1004, .running, 1, 1) := by decide
theorem test_M17_ld : regAfter [(1, 0x2000)] [(0x2000, 0x1)] (.ld 1 0 0) 0 = some (0x0, 0x1004, .running, 1, 1) := by decide
theorem test_M10_ld_faults : regAfter [(1, 0x2000)] [] (.ld 1 3 4089) 3 = some (0, 0x1000, .halted .memoryFault, 0, 0) := by decide
theorem test_M12_lb_faults : regAfter [(1, 0x2000)] [] (.lb 1 3 (-1)) 3 = some (0, 0x1000, .halted .memoryFault, 0, 0) := by decide
theorem test_M13_lb_faults : regAfter [(1, 0x3000)] [] (.lb 1 3 0) 3 = some (0, 0x1000, .halted .memoryFault, 0, 0) := by decide
theorem test_M14_lb_faults : regAfter [(1, 0xffffffffffffffff)] [] (.lb 1 3 1) 3 = some (0, 0x1000, .halted .memoryFault, 0, 0) := by decide
theorem test_M15_lb_faults : regAfter [(1, 0x0)] [] (.lb 1 3 (-1)) 3 = some (0, 0x1000, .halted .memoryFault, 0, 0) := by decide
theorem test_M22_sw_faults : regAfter [(1, 0x2000), (2, 0x1)] [] (.sw 1 2 4094) 3 = some (0, 0x1000, .halted .memoryFault, 0, 0) := by decide

/-- After one step from pc 0x1000: the listed bytes (by architectural address) and the counters. -/
def bytesAfter (regs : List (Nat × Word)) (bytes : List (Nat × Byte)) (i : Instr) (at_ : List Nat) : Option (List Byte × Word × Word) :=
  (next (step (start regs bytes 0x1000 i))).map fun t => (at_.map fun a => t.getByte (a - 0x2000), t.accesses, t.misses)

theorem test_M1_sw : bytesAfter [(1, 0x2000), (2, 0xffffffff)] [] (.sw 1 2 0) [0x2000, 0x2003, 0x2004] = some ([0xff, 0xff, 0x0], 1, 1) := by decide
theorem test_M18_sb : bytesAfter [(1, 0x2000), (2, 0x1234)] [] (.sb 1 2 0) [0x2000, 0x2001] = some ([0x34, 0x0], 1, 1) := by decide
theorem test_M19_sh : bytesAfter [(1, 0x2000), (2, 0xabcdef)] [] (.sh 1 2 2) [0x2001, 0x2002, 0x2003, 0x2004] = some ([0x0, 0xef, 0xcd, 0x0], 1, 1) := by decide
theorem test_M20_sd : bytesAfter [(1, 0x2000), (2, 0x102030405060708)] [] (.sd 1 2 0) [0x2000, 0x2001, 0x2002, 0x2003, 0x2004, 0x2005, 0x2006, 0x2007] = some ([0x8, 0x7, 0x6, 0x5, 0x4, 0x3, 0x2, 0x1], 1, 1) := by decide
theorem test_M21_sd : bytesAfter [(1, 0x2000)] [(0x2000, 0xaa), (0x2001, 0xaa), (0x2002, 0xaa), (0x2003, 0xaa), (0x2004, 0xaa), (0x2005, 0xaa), (0x2006, 0xaa), (0x2007, 0xaa), (0x2008, 0xaa)] (.sd 1 0 0) [0x2000, 0x2007, 0x2008] = some ([0x0, 0x0, 0xaa], 1, 1) := by decide

/-- After one step from a pc: the pc, and register `k`. -/
def pcAfter (regs : List (Nat × Word)) (pc : Word) (i : Instr) (k : Nat) : Option (Word × Word) :=
  (next (step (start regs [] pc i))).map fun t => (t.pc, t.readReg k)

theorem test_F8_beq : pcAfter [(1, 0x7), (2, 0x7)] 0x1000 (.beq 1 2 8) 0 = some (0x1008, 0x0) := by decide
theorem test_F9_beq : pcAfter [(1, 0x7), (2, 0x8)] 0x1000 (.beq 1 2 8) 0 = some (0x1004, 0x0) := by decide
theorem test_F10_bne : pcAfter [(1, 0x1), (2, 0x2)] 0x1008 (.bne 1 2 (-4)) 0 = some (0x1004, 0x0) := by decide
theorem test_F11_blt : pcAfter [(1, 0xffffffffffffffff), (2, 0x0)] 0x1000 (.blt 1 2 16) 0 = some (0x1010, 0x0) := by decide
theorem test_F12_bltu : pcAfter [(1, 0xffffffffffffffff), (2, 0x0)] 0x1000 (.bltu 1 2 16) 0 = some (0x1004, 0x0) := by decide
theorem test_F13_bge : pcAfter [(1, 0x3), (2, 0x3)] 0x1000 (.bge 1 2 12) 0 = some (0x100c, 0x0) := by decide
theorem test_F14_bgeu : pcAfter [(1, 0xffffffffffffffff), (2, 0x0)] 0x1000 (.bgeu 1 2 12) 0 = some (0x100c, 0x0) := by decide
theorem test_F20_jal : pcAfter [] 0x1000 (.jal 1 16) 1 = some (0x1010, 0x1004) := by decide
theorem test_F21_jal : pcAfter [] 0x1010 (.jal 0 (-8)) 0 = some (0x1008, 0x0) := by decide
theorem test_F22_jalr : pcAfter [(2, 0x1000)] 0x1008 (.jalr 1 2 5) 1 = some (0x1004, 0x100c) := by decide
theorem test_F23_jalr : pcAfter [(1, 0x1010)] 0x1004 (.jalr 1 1 0) 1 = some (0x1010, 0x1008) := by decide

/-- Vectors S1 to S4: the status and the pc after an ECALL. -/
def ecallAfter (n : Word) : Option (Status × Word) :=
  (next (step (start [(17, n)] [] 0x1000 .ecall))).map fun t => (t.status, t.pc)
theorem test_S1_S3_S4_ecall_raises :
    ecallAfter 2 = some (.halted .exit, 0x1000) ∧ ecallAfter 0 = some (.halted .unknownSyscall, 0x1000) ∧
    ecallAfter 0x0000000100000002 = some (.halted .unknownSyscall, 0x1000) := by decide
/-- The dump of the step, as a list of words: the pc and registers 0, 5, 17 and 31. -/
def dumpAfter (s : State) : Option (List Word) :=
  ((next (step s)).bind fun t => t.dump).map fun d => d.pc :: [0, 5, 17, 31].map (fun k => d.regs.getD k 1)
theorem test_S2_ecall_dumps :
    ecallAfter 23 = some (.running, 0x1004) ∧
    dumpAfter (start [(5, 9), (17, 23)] [] 0x1000 .ecall) = some [0x1000, 0, 9, 23, 0] := by decide

/-! Fetch vectors T1 to T8 and T11: four copies of `ADDI x1,x1,1`. -/

/-- The configuration of the fetch vectors, at an entry address. -/
def fetchState (pc upper : Word) (m : FetchMisaligned) (r : Record) : State :=
  { State.reset with pc := pc, prog := [r, r, r, r], cfg := { Config.cfg with instrUpper := upper, entryAddress := pc, fetchMisaligned := m } }
def fetchAfter (pc upper : Word) (m : FetchMisaligned) (r : Record) : Option (Status × Word × Word) :=
  (next (step (fetchState pc upper m r))).map fun t => (t.status, t.pc, t.readReg 1)
def inc : Record := (Instr.addi 1 1 1).record
theorem test_T1_T4_fetch_runs :
    fetchAfter 0x1000 0x1010 .truncate inc = some (.running, 0x1004, 1) ∧
    fetchAfter 0x1006 0x1010 .truncate inc = some (.running, 0x100A, 1) := by decide
theorem test_T2_T3_outside_window :
    fetchAfter 0x0FFC 0x1010 .truncate inc = some (.halted .instructionFault, 0x0FFC, 0) ∧
    fetchAfter 0x1010 0x1010 .truncate inc = some (.halted .instructionFault, 0x1010, 0) := by decide
theorem test_T5_T6_misaligned_and_beyond :
    fetchAfter 0x1006 0x1010 .fault inc = some (.halted .instructionFault, 0x1006, 0) ∧
    fetchAfter 0x1010 0x1020 .truncate inc = some (.halted .instructionFault, 0x1010, 0) := by decide
theorem test_T7_T8_illegal_records :
    fetchAfter 0x1000 0x1010 .truncate (recordOfWord 0x0000000F) = some (.halted .instructionFault, 0x1000, 0) ∧
    fetchAfter 0x1000 0x1010 .truncate ⟨.known .add, .rri 1 1 1⟩ = some (.halted .instructionFault, 0x1000, 0) := by decide
theorem test_T11_halted : next (step (State.reset.raise .exit)) = none := by decide

/-! Cache vectors K2 to K5: outcomes and counters. -/

def outcomes (sets : Nat) (addrs : List Word) : List CacheOutcome × Word × Word × List (Bool × Word) :=
  let s0 : State := { State.reset with cfg := { Config.cfg with cacheSets := sets, cacheTotalLines := sets }, lines := List.replicate sets ⟨false, 0⟩ }
  let r := addrs.foldl (fun (p : List CacheOutcome × State) a => let t := p.2.cacheAccess a; (p.1 ++ [t.trace.cache], t)) ([], s0)
  (r.1, r.2.accesses, r.2.misses, r.2.lines.map fun l => (l.valid, l.tag))
theorem test_K2_cache : outcomes 4 [0, 0x100, 0] = ([.miss, .miss, .miss], 3, 3, [(true, 0), (false, 0), (false, 0), (false, 0)]) := by decide
theorem test_K3_cache :
    outcomes 4 [0x2000, 0x203F, 0x2040] = ([.miss, .hit, .miss], 3, 2, [(true, 0x80), (true, 0x81), (false, 0), (false, 0)]) := by decide
theorem test_K4_cache : outcomes 3 [0, 0xC0, 0x40, 0] = ([.miss, .miss, .miss, .miss], 4, 4, [(true, 0), (true, 1), (false, 0)]) := by decide
theorem test_K5_cache : outcomes 1 [0, 0x40, 0, 0] = ([.miss, .miss, .miss, .hit], 4, 3, [(true, 0)]) := by decide

/-! Construction: T9, T10; the port codes of R48. -/

theorem test_T9_T10_config_error :
    construct { Config.cfg with cacheTotalLines := 8 } [] (fun _ => 0) (fun _ => 0) (fun _ => 0) = .error .configError ∧
    construct { Config.cfg with cacheSets := 0, cacheTotalLines := 0 } [] (fun _ => 0) (fun _ => 0) (fun _ => 0) = .error .configError :=
  ⟨if_neg (by decide), if_neg (by decide)⟩
theorem test_status_codes :
    [Status.running, .halted .instructionFault, .halted .memoryFault, .halted .exit, .halted .unknownSyscall].map Status.code = [0, 1, 2, 3, 4] := by
  decide

/-! ## Witnesses: a state and operands that meet the hypotheses of each statement that has any. -/

/-- A running state with a program, bytes in memory, a valid cache line and registers set. -/
def wit : State :=
  { State.reset with
    x := ((State.reset.writeReg 1 0x2000).writeReg 2 0x1122334455667788).x
    mem := [(0, 1), (5, 0xFF)]
    lines := [⟨true, 0x80⟩, ⟨false, 0⟩, ⟨false, 0⟩, ⟨false, 0⟩]
    accesses := 1
    misses := 1
    prog := [(Instr.add 3 1 2).record] }

/-- The witness with another system-call number. -/
def witCall (n : Word) : State := { wit.writeReg 17 n with prog := [Instr.ecall.record] }

theorem wit_inv : wit.Inv where
  cfgValid := by decide
  linesLength := by decide
  memCanonical := by decide
  memInSize := by decide
  linesPlaced := by
    intro k l hk hv
    match k, hk with
    | 0, hk => cases hk; decide
    | 1, hk => cases hk; cases hv
    | 2, hk => cases hk; cases hv
    | 3, hk => cases hk; cases hv

/-- Loads and stores, StoreResults, MemoryFaultExactly: the first and the last doubleword of the window, and one byte too far. -/
theorem witness_access :
    wit.mem.wf = true ∧ InDataWindow wit.cfg (ea wit 1 0) 8 ∧ InDataWindow wit.cfg (ea wit 1 0xFF8) 8 ∧
    ¬ InDataWindow wit.cfg (ea wit 1 0xFF9) 8 ∧ access (.ld 1 3 0xFF9) = some (1, 0xFF9, 8) ∧ access (.sb 1 3 0) = some (1, 0, 1) := by
  simp only [InDataWindow]
  decide

/-- Each width at its last address, and one byte beyond it. -/
theorem witness_access_bounds :
    (InDataWindow wit.cfg 0x2FFF 1 ∧ ¬ InDataWindow wit.cfg 0x3000 1) ∧ (InDataWindow wit.cfg 0x2FFE 2 ∧ ¬ InDataWindow wit.cfg 0x2FFF 2) ∧
    (InDataWindow wit.cfg 0x2FFC 4 ∧ ¬ InDataWindow wit.cfg 0x2FFD 4) ∧ ¬ InDataWindow wit.cfg 0x1FFF 1 ∧
    ¬ InDataWindow wit.cfg (-1) 1 ∧ ¬ InDataWindow wit.cfg (2 ^ 64) 1 := by
  simp only [InDataWindow]
  decide

/-- EcallResults: each of the three values. -/
theorem witness_ecall : uReg (witCall 23) 17 = 23 ∧ uReg (witCall 2) 17 = 2 ∧ uReg (witCall 0) 17 ≠ 23 ∧ uReg (witCall 0) 17 ≠ 2 := by decide

/-- LoadSeesStore. -/
theorem witness_load_sees_store : wit.mem.wf = true ∧ InDataWindow wit.cfg (ea wit 1 3) 8 ∧ 1 ≤ 31 ∧ 31 ≤ 31 := by
  simp only [InDataWindow]
  decide

/-- RegisterLawAndLenientAccesses: a register of each kind and an offset at MEMORY_SZ, in a state whose size is below 2^64. -/
theorem witness_registers : 1 ≤ 31 ∧ 31 ≤ 31 ∧ 31 < 32 ∧ wit.cfg.memorySz.toNat ≤ 0x1000 ∧ 0x1000 < 2 ^ 64 := by decide

/-- CacheConflictEvicts: two conflicting addresses, and two that do not conflict. -/
theorem witness_conflict :
    wit.Inv ∧ (blockOf 0 ≠ blockOf 0x100 ∧ blockOf 0 % wit.cfg.cacheSets = blockOf 0x100 % wit.cfg.cacheSets) ∧
    blockOf 0 % wit.cfg.cacheSets ≠ blockOf 0x40 % wit.cfg.cacheSets := ⟨wit_inv, by decide⟩

/-- OnlyDestinationWritten, OnlyMemoryGroupTouchesMemory, OnlyBranchesRedirect: an executed instruction of each kind, running and raising. -/
theorem witness_exec :
    wit.status = .running ∧ exec (.add 3 1 2) wit = .next ((wit.writeReg 3 0x1122334455669788).setPc 0x1004) ∧
    dest (.add 3 1 2) ≠ some 4 ∧ (Instr.add 3 1 2).group ≠ .memory ∧ isStore (.lb 1 3 0) = false ∧ redirects (.add 3 1 2) = false ∧
    exec (.lb 0 3 0) wit = .next (wit.raise .memoryFault) := ⟨rfl, rfl, by decide, by decide, rfl, rfl, rfl⟩

/-- UnnamedRegisterIrrelevant: register 5, which neither ADD nor ECALL names. -/
theorem witness_unnamed :
    AgreeButReg 5 wit (wit.writeReg 5 7) ∧ 5 ∉ sources (.add 3 1 2) ∧ Instr.add 3 1 2 ≠ .ecall ∧ 5 ∉ sources .ecall ∧ (5 : Nat) ≠ 17 := by
  refine ⟨⟨fun j hj => ?_, rfl, rfl, rfl, rfl, rfl, rfl, rfl, rfl, rfl, rfl⟩, by decide⟩
  unfold State.writeReg State.readReg
  by_cases h : 1 ≤ j ∧ j ≤ 31
  · simp only [dif_pos h]
    rw [dif_pos (by decide), Vector.getElem_set_ne]
    omega
  · simp only [dif_neg h]

/-- WordOperationsIgnoreUpperHalves: two states that differ in the upper half of x1. -/
theorem witness_word :
    isW (.addw 3 1 2) = true ∧ dest (.addw 3 1 2) = some 3 ∧ (∀ k, lowReg wit k = lowReg (wit.writeReg 1 0x700002000) k) ∧
    exec (.addw 3 1 2) wit = .next ((wit.writeReg 3 0x55669788).setPc 0x1004) ∧
    exec (.addw 3 1 2) (wit.writeReg 1 0x700002000) = .next (((wit.writeReg 1 0x700002000).writeReg 3 0x55669788).setPc 0x1004) := by
  refine ⟨rfl, rfl, fun k => ?_, rfl, rfl⟩
  by_cases hk : k = 1
  · subst hk; decide
  · unfold lowReg uReg
    congr 3
    unfold State.writeReg State.readReg
    by_cases h : 1 ≤ k ∧ k ≤ 31
    · simp only [dif_pos h]
      rw [dif_pos (by decide), Vector.getElem_set_ne]
      omega
    · simp only [dif_neg h]

/-- ExceptionsOfInstructions: each of the three kinds is raised. -/
theorem witness_exceptions :
    (wit.status = .running ∧ exec (.lb 0 3 0) wit = .next (wit.raise .memoryFault) ∧ (wit.raise .memoryFault).status = .halted .memoryFault) ∧
    ((witCall 2).status = .running ∧ exec .ecall (witCall 2) = .next ((witCall 2).raise .exit)) ∧
    ((witCall 0).status = .running ∧ exec .ecall (witCall 0) = .next ((witCall 0).raise .unknownSyscall)) := ⟨⟨rfl, rfl, rfl⟩, ⟨rfl, rfl⟩, rfl, rfl⟩

/-- GroupDispatchAgrees, StepRunsFetchedInstruction, RunStatusTransitions: a running state whose record is fetched, aligned. -/
theorem witness_fetch :
    wit.status = .running ∧ Fetches wit (Instr.add 3 1 2).record ∧ (Instr.add 3 1 2).record.instr = .ok (.add 3 1 2) :=
  ⟨rfl, ⟨by unfold PcInWindow; decide, .inl rfl, rfl⟩, rfl⟩

/-- The same at a pc that is not on a record boundary, under `truncate`. -/
theorem witness_fetch_truncates : Fetches { wit with pc := 0x1002 } (Instr.add 3 1 2).record ∧ pcOffset { wit with pc := 0x1002 } % 4 ≠ 0 :=
  ⟨⟨by unfold PcInWindow; decide, .inr rfl, rfl⟩, by decide⟩

/-- FetchWordIsNextStep and EncodeOfDecode. -/
theorem witness_fetch_word : decodeTableWord 32 0x00530333 = some (.add 6 6 5) ∧ decodeWord 0x00530333 = .ok (.add 6 6 5) := ⟨by decide, rfl⟩

/-- InstructionFaultExactly: a running state for each of the five causes, one of which faults. -/
theorem witness_instruction_fault :
    ¬ PcInWindow { wit with pc := 0x2000 } ∧
    pcOffset { wit with pc := 0x1002, cfg := { wit.cfg with fetchMisaligned := .fault } } % 4 ≠ 0 ∧
    wit.prog.length ≤ pcOffset { wit with pc := 0x1004 } / 4 ∧
    (recordOfWord 0x0000000F).op = .other 0x0000000F ∧ (Operands.rri 1 1 1).format ≠ Tag.add.format ∧
    step { wit with pc := 0x2000 } = .next (({ wit with pc := 0x2000 }.present none).raise .instructionFault) := by
  refine ⟨by unfold PcInWindow; decide, by decide, by decide, by decide, by decide, rfl⟩

/-- RunStatusTransitions, RaisingStepWritesNothing: a halted state, and a step that raises. -/
theorem witness_halted :
    (wit.raise .exit).status = .halted .exit ∧
    step (witCall 2) = .next (((witCall 2).present (some Instr.ecall.record)).raise .exit) ∧
    (((witCall 2).present (some Instr.ecall.record)).raise .exit).status = .halted .exit := ⟨rfl, rfl, rfl⟩

/-- ConfigurationAndProgramConstant, StepTouchesAtMostOnce, MissesAtMostAccesses, StepKeepsInvariant, RunKeepsInvariant: a step from the witness. -/
theorem witness_step :
    wit.Inv ∧ wit.accesses.toNat + 1 < 2 ^ 64 ∧ wit.misses.toNat ≤ wit.accesses.toNat ∧
    step wit = .next (((wit.present (some (Instr.add 3 1 2).record)).writeReg 3 0x1122334455669788).setPc 0x1004) ∧
    Host.Core.run Sys2Proof.core 1 wit = .next (((wit.present (some (Instr.add 3 1 2).record)).writeReg 3 0x1122334455669788).setPc 0x1004) :=
  ⟨wit_inv, by decide, by decide, rfl, rfl⟩

/-- DumpOnlyFromEcall: a step that dumps. -/
theorem witness_dump :
    step (witCall 23) = .next (((witCall 23).present (some Instr.ecall.record)).presentDump.setPc 0x1004) ∧
    Fetches (witCall 23) Instr.ecall.record ∧ uReg (witCall 23) 17 = 23 :=
  ⟨rfl, ⟨by unfold PcInWindow; decide, .inl rfl, rfl⟩, by decide⟩

/-- ConstructionMeetsInvariant, ConstructionValues: a valid configuration, and one invalid in each way. -/
theorem witness_configurations :
    Config.cfg.Valid ∧ ¬ { Config.cfg with cacheTotalLines := 8 }.Valid ∧ ¬ { Config.cfg with cacheSets := 0, cacheTotalLines := 0 }.Valid := by
  decide

/-- RunStatusTransitions, ConfigurationAndProgramConstant: a state that construction gives. -/
theorem witness_construct : construct Config.cfg [] (fun _ => 0) (fun _ => 0) (fun _ => 0) = .ok State.reset := construct_reset

/-- CacheNeverInfluencesExecution: the witness and the same state with another cache. -/
theorem witness_other_cache : AgreeButCache wit { wit with lines := State.reset.lines, accesses := 9, misses := 4 } :=
  ⟨rfl, rfl, rfl, rfl, rfl, rfl, rfl, rfl⟩

/-- DecodeOfEncode: a well-formed instruction at the edges of its ranges. -/
theorem witness_wf : (Instr.bltu 31 0 (-4096)).wf = true ∧ (Instr.jal 31 1048574).wf = true := by decide

/-- AtMostOneRowMatches and UnmatchedWordsFault: a word that matches a row, one that matches none, and the listed kinds. -/
theorem witness_words :
    (0x00530333 : InstrWord) &&& Tag.add.row.mask = Tag.add.row.bits ∧
    (∀ t ∈ Tag.all, (0x00000000 : InstrWord) &&& t.row.mask ≠ t.row.bits) ∧
    (0x0000000F : InstrWord).extractLsb 6 0 = 0x0F ∧ ((0x30200073 : InstrWord).extractLsb 6 0 = 0x73 ∧ (0x30200073 : InstrWord) ≠ 0x73) ∧
    ((0x0200101B : InstrWord).extractLsb 6 0 = 0x1B ∧ (0x0200101B : InstrWord).extractLsb 14 12 = 1 ∧ (0x0200101B : InstrWord).getLsbD 25 = true) ∧
    Fetches { wit with prog := [recordOfWord 0x0000000F] } (recordOfWord 0x0000000F) :=
  ⟨by decide, by decide, by decide, by decide, by decide, ⟨by unfold PcInWindow; decide, .inl rfl, rfl⟩⟩

end Sys2Proof.Tests
end

section
/-! The state of the block (10_state.md): what construction latches and no step or run changes, and the law of the register file with the lenient accesses. -/

namespace Sys2Proof.Machine

/-! Runs. -/

/-- A run of `n + 1` steps that reaches a state is a step and a run of `n` steps that reaches it. -/
theorem run_succ_next {M : Host.Core} {n : Nat} {s t : M.State} :
    M.run (n + 1) s = .next t ↔ ∃ u, M.step s = .next u ∧ M.run n u = .next t := by
  rw [Host.Core.run]
  cases M.step s <;> simp

/-- What every step keeps, every run keeps. -/
theorem run_keeps {M : Host.Core} {P : M.State → Prop} (hstep : ∀ s t, M.step s = .next t → P s → P t) (n : Nat)
    {s t : M.State} (h : M.run n s = .next t) (hs : P s) : P t := by
  induction n generalizing s with
  | zero => cases h; exact hs
  | succ n ih =>
    obtain ⟨u, hu, hrun⟩ := run_succ_next.mp h
    exact ih hrun (hstep s u hu hs)

/-! The configuration and the instruction array are read-only (10_state.md R43, R49). -/

/-- Two states with the same configuration snapshot and the same instruction array. -/
def SameLatched (s t : State) : Prop := t.cfg = s.cfg ∧ t.prog = s.prog

theorem SameLatched.trans {s t u : State} (hst : SameLatched s t) (htu : SameLatched t u) : SameLatched s u :=
  ⟨htu.1.trans hst.1, htu.2.trans hst.2⟩

theorem present_sameLatched (s : State) (r : Option Record) : SameLatched s (s.present r) := ⟨rfl, rfl⟩

theorem AccessEffect.sameLatched {s t : State} {z : AccessSize} {a : Word} (h : AccessEffect s z a t) : SameLatched s t := by
  rcases h with ⟨rd, v, rfl⟩ | ⟨rs2, rfl⟩
  · simp [SameLatched]
  · simp [SameLatched]

theorem exec_sameLatched {i : Instr} {s t : State} (h : exec i s = .next t) : SameLatched s t := by
  rcases exec_next h with ⟨-, -, rd, v, p, rfl⟩ | ⟨-, hcall⟩ | ⟨-, z, base, offset, ⟨-, rfl⟩ | ⟨-, heff⟩⟩
  · simp [SameLatched]
  · rcases hcall with ⟨-, rfl⟩ | ⟨-, rfl⟩ | ⟨-, -, rfl⟩ <;> exact ⟨rfl, rfl⟩
  · exact ⟨rfl, rfl⟩
  · exact heff.sameLatched

theorem step_sameLatched {s t : State} (h : step s = .next t) : SameLatched s t := by
  obtain ⟨-, ⟨c, -, rfl⟩ | ⟨i, -, hexec⟩⟩ := step_next h
  · exact ⟨rfl, rfl⟩
  · exact (present_sameLatched s _).trans (exec_sameLatched hexec)

theorem run_sameLatched {n : Nat} {s t : State} (h : Host.Core.run Sys2Proof.core n s = .next t) : SameLatched s t :=
  run_keeps (M := Sys2Proof.core) (P := SameLatched s) (fun _ _ hstep hs => hs.trans (step_sameLatched hstep)) n h ⟨rfl, rfl⟩

/-- Construction succeeds exactly on a valid configuration, with the state of R53 (70_reset_and_hazards.md R500, R501). -/
theorem construct_ok_iff (c : Config) (prog : List Record) (regInit : Nat → Word) (memInit : Nat → Byte)
    (tagInit : Nat → Word) (s : State) :
    construct c prog regInit memInit tagInit = .ok s ↔ c.Valid ∧ s = constructed c prog regInit memInit tagInit := by
  unfold construct
  split
  · next hv => rw [Except.ok.injEq, eq_comm, and_iff_right hv]
  · next hv => simp [hv]

/-! The register file and the bytes beyond the memory. -/

theorem readReg_writeReg_same {r : Nat} (h1 : 1 ≤ r) (h31 : r ≤ 31) (s : State) (v : Word) :
    (s.writeReg r v).readReg r = v := by
  rw [readReg_writeReg, if_pos ⟨rfl, h1, h31⟩]

theorem readReg_writeReg_of_ne {r k : Nat} (h : k ≠ r) (s : State) (v : Word) :
    (s.writeReg r v).readReg k = s.readReg k := by
  rw [readReg_writeReg, if_neg fun hk => h hk.1]

theorem getByte_beyond {s : State} {off : Nat} (h : s.cfg.memorySz.toNat ≤ off) : s.getByte off = 0 := by
  unfold State.getByte
  exact if_neg h.not_gt

/-- Settles O33: construction's only success is `constructed`, and every step, hence every run, keeps the two latched fields. -/
theorem configurationAndProgramConstant : Obligations.ConfigurationAndProgramConstant := by
  intro s
  refine ⟨fun c prog regInit memInit tagInit h => ?_, fun t h => step_sameLatched h, fun n t h => run_sameLatched h⟩
  obtain ⟨-, rfl⟩ := (construct_ok_iff c prog regInit memInit tagInit s).mp h
  exact ⟨rfl, rfl, rfl⟩

/-- Settles O20: the read-after-write law of the register file, split by whether the number names a stored register. -/
theorem registerLawAndLenientAccesses : Obligations.RegisterLawAndLenientAccesses := by
  intro s v
  refine ⟨fun r h1 h31 => ?stored, fun r hr => ?absent, fun off h => getByte_beyond h⟩
  case stored => exact ⟨readReg_writeReg_same h1 h31 s v, fun k hk => readReg_writeReg_of_ne hk s v⟩
  case absent =>
    rcases hr with rfl | habove
    · exact ⟨writeReg_zero s v, readReg_zero s⟩
    · exact ⟨writeReg_above s habove v, readReg_above s habove⟩

end Sys2Proof.Machine
end

section
/-! Two runs side by side: a relation that every shared operation of the model respects is respected by every step. The cache's invisibility to the program (20_memory.md R90) follows for the relation of agreement on all but the cache. -/

namespace Sys2Proof.Machine

open Sys2Proof.Claims

/-- Related states show an instruction the same values, and every operation `step` is made of keeps them related. -/
structure RespectedByOps (R : State → State → Prop) : Prop where
  status : ∀ {s t}, R s t → s.status = t.status
  fetchInstr : ∀ {s t}, R s t → fetchInstr s = fetchInstr t
  readReg : ∀ {s t}, R s t → s.readReg = t.readReg
  pc : ∀ {s t}, R s t → s.pc = t.pc
  checkData : ∀ {s t}, R s t → checkData s.cfg = checkData t.cfg
  memRead : ∀ {s t}, R s t → s.memRead = t.memRead
  present : ∀ {s t}, R s t → ∀ r, R (s.present r) (t.present r)
  setPc : ∀ {s t}, R s t → ∀ p, R (s.setPc p) (t.setPc p)
  raise : ∀ {s t}, R s t → ∀ k, R (s.raise k) (t.raise k)
  presentDump : ∀ {s t}, R s t → R s.presentDump t.presentDump
  writeReg : ∀ {s t}, R s t → ∀ rd v, R (s.writeReg rd v) (t.writeReg rd v)
  memWrite : ∀ {s t}, R s t → ∀ a z v, R (s.memWrite a z v) (t.memWrite a z v)
  cacheAccess : ∀ {s t}, R s t → ∀ a, R (s.cacheAccess a) (t.cacheAccess a)

namespace RespectedByOps

variable {R : State → State → Prop} (hR : RespectedByOps R) {s t : State}
include hR

theorem pcNext (h : R s t) : s.pcNext = t.pcNext := by
  unfold State.pcNext; rw [hR.pc h]

theorem regOp (h : R s t) {rd : Nat} {v w : Word} (hv : v = w) : Corresponds R (regOp rd v s) (regOp rd w t) := by
  subst hv
  unfold Machine.regOp
  rw [hR.pcNext h]
  exact hR.setPc (hR.writeReg h rd v) _

theorem branchOp (h : R s t) {c d : Bool} {imm : Int} (hc : c = d) :
    Corresponds R (branchOp c imm s) (branchOp d imm t) := by
  subst hc
  unfold Machine.branchOp
  rw [hR.pcNext h, hR.pc h]
  exact hR.setPc h _

theorem linkOp (h : R s t) {rd : Nat} {p q : Word} (hp : p = q) : Corresponds R (linkOp rd p s) (linkOp rd q t) := by
  subst hp
  unfold Machine.linkOp
  rw [hR.pcNext h]
  exact hR.setPc (hR.writeReg h rd _) p

/-- The data check has the same answer on both sides, so both raise MemoryFault or both go on. -/
theorem memoryOp (h : R s t) {z : AccessSize} {base : Nat} {offset : Int} {op op' : Word → State → State}
    (hop : ∀ a {u v}, R u v → R (op a u) (op' a v)) :
    Corresponds R (memoryOp z base offset op s) (memoryOp z base offset op' t) := by
  unfold Machine.memoryOp State.effectiveAddress
  rw [hR.readReg h, hR.checkData h, hR.pcNext h]
  split
  · exact hR.raise h _
  · exact hR.setPc (hop _ (hR.cacheAccess h _)) _

theorem loadOp (h : R s t) {z : AccessSize} {ext : Word → Word} {base rd : Nat} {offset : Int} :
    Corresponds R (loadOp z ext base rd offset s) (loadOp z ext base rd offset t) := by
  refine hR.memoryOp h fun a u v huv => ?_
  rw [hR.memRead huv]
  exact hR.writeReg huv rd _

theorem storeOp (h : R s t) {z : AccessSize} {base rs2 : Nat} {offset : Int} :
    Corresponds R (storeOp z base rs2 offset s) (storeOp z base rs2 offset t) := by
  refine hR.memoryOp h fun a u v huv => ?_
  rw [hR.readReg h]
  exact hR.memWrite huv a z _

theorem execEcall (h : R s t) : Corresponds R (execEcall s) (execEcall t) := by
  unfold Machine.execEcall
  rw [hR.readReg h, hR.pcNext h]
  split
  · exact hR.setPc (hR.presentDump h) _
  · split
    · exact hR.raise h _
    · exact hR.raise h _

theorem exec (h : R s t) (i : Instr) : Corresponds R (exec i s) (exec i t) := by
  have hx := hR.readReg h
  have hpc := hR.pc h
  cases i
  case ecall => exact hR.execEcall h
  case lb | lh | lw | ld | lbu | lhu | lwu => exact hR.loadOp h
  case sb | sh | sw | sd => exact hR.storeOp h
  case beq | bne | blt | bge | bltu | bgeu => exact hR.branchOp h (by rw [hx])
  case jal => exact hR.linkOp h (by rw [hpc])
  case jalr => exact hR.linkOp h (by rw [hx])
  case lui => exact hR.regOp h rfl
  case auipc => exact hR.regOp h (by rw [hpc])
  all_goals exact hR.regOp h (by rw [hx])

/-- Both states are halted alike, or fetch alike and go on alike. -/
theorem step (h : R s t) : Corresponds R (step s) (step t) := by
  unfold Machine.step
  rw [hR.status h, hR.fetchInstr h]
  split
  · rfl
  · split
    · exact hR.raise (hR.present h none) _
    · exact hR.exec (hR.present h _) _

end RespectedByOps

/-! The states that agree on all but the cache. -/

/-- A fetch reads the pc, the configuration and the instruction array alone (40_dispatch.md R151 to R155). -/
theorem fetchInstr_congr {s t : State} (hpc : s.pc = t.pc) (hcfg : s.cfg = t.cfg) (hprog : s.prog = t.prog) :
    fetchInstr s = fetchInstr t := by
  unfold fetchInstr fetch State.pcInWindow State.pcMisaligned State.fetchIndex State.fetchDistance
  rw [hpc, hcfg, hprog]

/-- A load reads the memory and the configuration alone. -/
theorem memRead_congr {s t : State} (hmem : s.mem = t.mem) (hcfg : s.cfg = t.cfg) : s.memRead = t.memRead := by
  unfold State.memRead State.offsetOf
  rw [hmem, hcfg]

theorem writeReg_x_congr {s t : State} (hx : s.x = t.x) (rd : Nat) (v : Word) :
    (s.writeReg rd v).x = (t.writeReg rd v).x := by
  unfold State.writeReg
  split
  · simp only [hx]
  · exact hx

theorem regSnapshot_congr {s t : State} (hx : s.x = t.x) : s.regSnapshot = t.regSnapshot := by
  unfold State.regSnapshot
  rw [funext (readReg_congr hx)]

/-- A cache access differs between the two sides only in what `AgreeButCache` leaves open. -/
theorem agreeButCache_respectedByOps : RespectedByOps AgreeButCache where
  status := fun ⟨_, _, _, hstatus, _⟩ => hstatus
  fetchInstr := fun ⟨_, hpc, _, _, hcfg, hprog, _⟩ => fetchInstr_congr hpc hcfg hprog
  readReg := fun ⟨hx, _⟩ => funext (readReg_congr hx)
  pc := fun ⟨_, hpc, _⟩ => hpc
  checkData := fun ⟨_, _, _, _, hcfg, _⟩ => by rw [hcfg]
  memRead := fun ⟨_, _, hmem, _, hcfg, _⟩ => memRead_congr hmem hcfg
  present := fun ⟨hx, hpc, hmem, hstatus, hcfg, hprog, _⟩ _ => ⟨hx, hpc, hmem, hstatus, hcfg, hprog, rfl, rfl⟩
  setPc := fun ⟨hx, _, hrest⟩ _ => ⟨hx, rfl, hrest⟩
  raise := fun ⟨hx, hpc, hmem, _, hrest⟩ _ => ⟨hx, hpc, hmem, rfl, hrest⟩
  presentDump := fun ⟨hx, hpc, hmem, hstatus, hcfg, hprog, _, hrecord⟩ =>
    ⟨hx, hpc, hmem, hstatus, hcfg, hprog, by simp [regSnapshot_congr hx, hpc], hrecord⟩
  writeReg := fun ⟨hx, hrest⟩ rd v => ⟨writeReg_x_congr hx rd v, by simpa using hrest⟩
  memWrite := fun ⟨hx, hpc, hmem, hstatus, hcfg, hrest⟩ _ _ _ =>
    ⟨hx, hpc, by simp [State.offsetOf, hmem, hcfg], hstatus, hcfg, hrest⟩
  cacheAccess := fun h _ => by simpa [AgreeButCache, cacheAccess_trace] using h

/-- Settles O42: every operation, the cache access among them, respects agreement on all but the cache, so every step does. -/
theorem cacheNeverInfluencesExecution : Obligations.CacheNeverInfluencesExecution :=
  fun _ _ h => agreeButCache_respectedByOps.step h

end Sys2Proof.Machine
end

section
/-! The direct-mapped cache (20_memory.md R84 to R89): a hit and an access, by the line in the address's set. -/

namespace Sys2Proof.Machine

/-- The line a miss installs: valid, with the full block number as its tag (20_memory.md R84, R86). -/
def lineOf (a : Word) : CacheLine := ⟨true, BitVec.ofNat 64 (blockOf a)⟩

/-- No two block numbers have the same line: each is below 2^64. -/
theorem lineOf_inj {a b : Word} : lineOf a = lineOf b ↔ blockOf a = blockOf b := by
  have hlt : ∀ c : Word, blockOf c < 2 ^ 64 := fun c => (Nat.div_le_self _ _).trans_lt c.isLt
  unfold lineOf
  rw [CacheLine.mk.injEq, ← BitVec.toNat_inj, BitVec.toNat_ofNat, BitVec.toNat_ofNat, Nat.mod_eq_of_lt (hlt a),
    Nat.mod_eq_of_lt (hlt b), and_iff_right rfl]

theorem cacheHit_iff (s : State) (a : Word) : s.cacheHit a = true ↔ s.lines[s.setOf a]? = some (lineOf a) := by
  unfold State.cacheHit lineOf
  split
  · next l hl =>
    obtain ⟨valid, tag⟩ := l
    simp [hl]
  · next hl => simp [hl]

@[simp] theorem setOf_cacheAccess (s : State) (a b : Word) : (s.cacheAccess a).setOf b = s.setOf b := by
  unfold State.setOf
  rw [cacheAccess_cfg]

@[simp] theorem length_lines_cacheAccess (s : State) (a : Word) : (s.cacheAccess a).lines.length = s.lines.length := by
  rw [cacheAccess_lines]
  split
  · rfl
  · exact List.length_set

/-- Whether it hits or misses, an access leaves its block's line in its set. -/
theorem cacheAccess_line_same {s : State} {a : Word} (h : s.setOf a < s.lines.length) :
    (s.cacheAccess a).lines[s.setOf a]? = some (lineOf a) := by
  rw [cacheAccess_lines]
  split
  · next hhit => exact (cacheHit_iff s a).mp hhit
  · exact List.getElem?_set_self h

theorem cacheAccess_line_of_ne {s : State} {a : Word} {k : Nat} (h : s.setOf a ≠ k) :
    (s.cacheAccess a).lines[k]? = s.lines[k]? := by
  rw [cacheAccess_lines]
  split
  · rfl
  · exact List.getElem?_set_ne h

/-- Where the invariant holds, every address has a line. -/
theorem State.Inv.setOf_lt {s : State} (h : s.Inv) (a : Word) : s.setOf a < s.lines.length := by
  rw [h.linesLength]
  exact Nat.mod_lt _ h.cfgValid.2

theorem cacheHit_cacheAccess_same {s : State} {a : Word} (h : s.setOf a < s.lines.length) :
    (s.cacheAccess a).cacheHit a = true := by
  rw [cacheHit_iff, setOf_cacheAccess]
  exact cacheAccess_line_same h

/-- An access evicts every other block of its set (20_memory.md R89). -/
theorem cacheHit_cacheAccess_conflict {s : State} {a b : Word} (h : s.setOf b < s.lines.length)
    (hset : s.setOf a = s.setOf b) (hblock : blockOf a ≠ blockOf b) : (s.cacheAccess b).cacheHit a = false := by
  rw [Bool.eq_false_iff, ne_eq, cacheHit_iff, setOf_cacheAccess, hset, cacheAccess_line_same h, Option.some.injEq, lineOf_inj]
  exact hblock.symm

theorem cacheHit_cacheAccess_of_ne {s : State} {a b : Word} (h : s.setOf a ≠ s.setOf b) :
    (s.cacheAccess a).cacheHit b = s.cacheHit b := by
  rw [Bool.eq_iff_iff, cacheHit_iff, cacheHit_iff, setOf_cacheAccess, cacheAccess_line_of_ne h]

/-- Settles O19: the line an access leaves is its own block's, so it hits its own block, evicts the others of its set, and touches no other set. -/
theorem cacheConflictEvicts : Obligations.CacheConflictEvicts := by
  intro s a b hs
  refine ⟨cacheHit_cacheAccess_same (hs.setOf_lt a), fun hblock hset => ?_, fun hset => cacheHit_cacheAccess_of_ne hset⟩
  refine cacheHit_cacheAccess_conflict ?_ ?_ hblock
  · rw [setOf_cacheAccess, length_lines_cacheAccess]
    exact hs.setOf_lt b
  · rw [setOf_cacheAccess, setOf_cacheAccess]
    exact hset

end Sys2Proof.Machine
end

section
/-! The logical instructions and the shifts that have no decision mark (41_arith_logical.md R204 to R209, R211 to R216, R220, R222, R224, R226): every one of them is `regOp` of a value, so its frame is proved once, and what is left is the value, bit by bit or as a number. -/

namespace Sys2Proof.Machine

open Sys2Proof.Claims

/-! The frame of the group. -/

theorem wrap64_toNat (v : Word) : wrap64 v.toNat = v := by
  rw [wrap64, BitVec.ofInt_natCast, BitVec.ofNat_toNat, BitVec.setWidth_eq]

theorem pcNext_eq_wrap64 (s : State) : s.pcNext = wrap64 (s.pc.toNat + 4) := by
  rw [wrap64, BitVec.ofInt_add]
  exact congrArg (· + 4#64) (wrap64_toNat s.pc).symm

/-- A register write followed by the pc's advance changes nothing else (41_arith_logical.md R201). -/
theorem writesReg_writeReg_setPc (s : State) (rd : Nat) (v : Word) :
    WritesReg s ((s.writeReg rd v).setPc s.pcNext) rd v := by
  refine ⟨fun k => ?regs, pcNext_eq_wrap64 s, ⟨?mem, fun off => ?bytes⟩, ?cache, ?control, ?ports⟩
  case regs =>
    rw [readReg_setPc, readReg_writeReg]
    refine if_congr (and_congr_right fun hk => ?_) rfl rfl
    rw [hk]
  case mem => simp
  case bytes => simp
  case cache => simp [SameCache]
  case control => simp [SameControl]
  case ports => simp [SamePorts]

/-- An instruction that is `regOp` of a value completes, having written that value and nothing else. -/
theorem completes_of_regOp {i : Instr} {s : State} {rd : Nat} {v : Word} {P : State → Prop}
    (hexec : exec i s = regOp rd v s) (hP : ∀ t, WritesReg s t rd v → P t) : Completes i s P :=
  ⟨_, hexec, hP _ (writesReg_writeReg_setPc s rd v)⟩

/-! Shift amounts (41_arith_logical.md R228). -/

/-- The low bits of a wrapped integer are its remainder, for every width up to 64. -/
theorem toNat_setWidth_wrap64 {w : Nat} (hw : w ≤ 64) (n : Int) :
    ((wrap64 n).setWidth w).toNat = (n % 2 ^ w).toNat := by
  have hdvd : (2 ^ w : Int) ∣ 2 ^ 64 := pow_dvd_pow 2 hw
  rw [BitVec.toNat_setWidth, BitVec.toNat_ofInt]
  zify
  rw [Int.toNat_of_nonneg (Int.emod_nonneg n (by decide)), Int.toNat_of_nonneg (Int.emod_nonneg n (by positivity))]
  exact Int.emod_emod_of_dvd n hdvd

theorem wrap64_uReg (s : State) (k : Nat) : wrap64 (uReg s k) = s.readReg k :=
  wrap64_toNat (s.readReg k)

theorem shamt64_immWord (imm : Int) : shamt64 (immWord imm) = (imm % 64).toNat :=
  toNat_setWidth_wrap64 (by decide) imm

theorem shamt64_readReg (s : State) (k : Nat) : shamt64 (s.readReg k) = (uReg s k % 64).toNat := by
  rw [← wrap64_uReg]
  exact shamt64_immWord (uReg s k)

theorem shamt32_immWord (imm : Int) : shamt32 (immWord imm) = (imm % 32).toNat :=
  toNat_setWidth_wrap64 (by decide) imm

theorem shamt32_readReg (s : State) (k : Nat) : shamt32 (s.readReg k) = (uReg s k % 32).toNat := by
  rw [← wrap64_uReg]
  exact shamt32_immWord (uReg s k)

/-! Shifts of a register as numbers. -/

theorem shiftLeft_readReg (s : State) (k n : Nat) : s.readReg k <<< n = wrap64 (uReg s k * 2 ^ n) := by
  apply BitVec.eq_of_toInt_eq
  rw [BitVec.toInt_shiftLeft, BitVec.toInt_ofInt, Nat.shiftLeft_eq, Int.natCast_mul, Int.natCast_pow]
  rfl

theorem toNat_ushiftRight_readReg (s : State) (k n : Nat) : ((s.readReg k >>> n).toNat : Int) = uReg s k / 2 ^ n := by
  rw [BitVec.toNat_ushiftRight, Nat.shiftRight_eq_div_pow]
  exact Int.natCast_div _ _

theorem toInt_sshiftRight_readReg (s : State) (k n : Nat) : ((s.readReg k).sshiftRight n).toInt = sReg s k / 2 ^ n := by
  rw [BitVec.toInt_sshiftRight, Int.shiftRight_eq_div_pow]
  rfl

/-! The W shifts as numbers (41_arith_logical.md R217). -/

theorem toInt_wResult (r : BitVec 32) : (wResult r).toInt = r.toInt :=
  BitVec.toInt_signExtend_of_le (by decide)

theorem toNat_trunc32_readReg (s : State) (k : Nat) : ((trunc32 (s.readReg k)).toNat : Int) = lowReg s k := by
  rw [trunc32, BitVec.toNat_setWidth]
  exact Int.natCast_mod _ _

theorem toInt_trunc32_readReg (s : State) (k : Nat) : (trunc32 (s.readReg k)).toInt = sint32 (lowReg s k) := by
  rw [BitVec.toInt_eq_toNat_bmod, toNat_trunc32_readReg]
  rfl

theorem toInt_shiftLeft_trunc32_readReg (s : State) (k n : Nat) :
    (wResult (trunc32 (s.readReg k) <<< n)).toInt = sint32 (lowReg s k * 2 ^ n) := by
  rw [toInt_wResult, BitVec.toInt_shiftLeft, Nat.shiftLeft_eq, Int.natCast_mul, toNat_trunc32_readReg]
  rfl

theorem toInt_sshiftRight_trunc32_readReg (s : State) (k n : Nat) :
    (wResult ((trunc32 (s.readReg k)).sshiftRight n)).toInt = sint32 (lowReg s k) / 2 ^ n := by
  rw [toInt_wResult, BitVec.toInt_sshiftRight, Int.shiftRight_eq_div_pow, toInt_trunc32_readReg]
  rfl

/-- Settles O2: each value is the bitwise operation itself, whose bits the library gives. -/
theorem logicalResults : Obligations.LogicalResults := by
  intro s rd rs1 rs2 imm
  refine ⟨?and, ?or, ?xor, ?andi, ?ori, ?xori⟩
  case and | andi => exact completes_of_regOp rfl fun _ hw => ⟨_, hw, fun _ _ => BitVec.getLsbD_and⟩
  case or | ori => exact completes_of_regOp rfl fun _ hw => ⟨_, hw, fun _ _ => BitVec.getLsbD_or⟩
  case xor | xori => exact completes_of_regOp rfl fun _ hw => ⟨_, hw, fun _ _ => BitVec.getLsbD_xor⟩

/-- Settles O3: the amounts are the shift amounts the model takes, from a register or an immediate, and each shift by any amount is a product or a quotient. -/
theorem shift64Results : Obligations.Shift64Results := by
  intro s rd rs1 rs2 imm
  dsimp only
  rw [← shamt64_readReg, ← shamt64_immWord, ← shiftLeft_readReg, ← shiftLeft_readReg]
  refine ⟨?sll, ?srl, ?sra, ?slli, ?srli, ?srai⟩
  case sll | slli => exact completes_of_regOp rfl fun _ hw => hw
  case srl | srli => exact completes_of_regOp rfl fun _ hw => ⟨_, hw, toNat_ushiftRight_readReg s rs1 _⟩
  case sra | srai => exact completes_of_regOp rfl fun _ hw => ⟨_, hw, toInt_sshiftRight_readReg s rs1 _⟩

/-- Settles O5: as for the 64-bit shifts, of the low 32 bits, whose sign extension keeps their signed value. -/
theorem wordShiftResults : Obligations.WordShiftResults := by
  intro s rd rs1 rs2 imm
  dsimp only
  rw [← shamt32_readReg, ← shamt32_immWord]
  refine ⟨?sllw, ?sraw, ?slliw, ?sraiw⟩
  case sllw | slliw => exact completes_of_regOp rfl fun _ hw => ⟨_, hw, toInt_shiftLeft_trunc32_readReg s rs1 _⟩
  case sraw | sraiw => exact completes_of_regOp rfl fun _ hw => ⟨_, hw, toInt_sshiftRight_trunc32_readReg s rs1 _⟩

end Sys2Proof.Machine
end

section
/-! The control-flow group without JALR and SLT (43_control_flow.md R303 to R313): a set-less-than is `regOp` of a comparison, a branch is `branchOp` on one, JAL is `linkOp`, so the frames are proved once, and what is left is what each comparison and each sum says as mathematics. -/

namespace Sys2Proof.Machine

open Sys2Proof.Claims

/-! The frames of the group (43_control_flow.md R301). -/

/-- The frame of a register write is the same whatever the next pc is. -/
theorem writes_writeReg_setPc (s : State) (rd : Nat) (v target : Word) :
    Writes s ((s.writeReg rd v).setPc target) rd v target := by
  obtain ⟨hregs, -, hframe⟩ := writesReg_writeReg_setPc s rd v
  exact ⟨hregs, rfl, hframe⟩

theorem jumps_setPc (s : State) (target : Word) : Jumps s (s.setPc target) target :=
  ⟨readReg_setPc s target, rfl, ⟨rfl, getByte_setPc s target⟩, ⟨rfl, rfl, rfl⟩, ⟨rfl, rfl, rfl⟩, ⟨rfl, rfl⟩⟩

/-! Sums wrapped modulo 2^64. -/

theorem add_wrap64 (v : Word) (n : Int) : v + wrap64 n = wrap64 (v.toNat + n) := by
  calc
    v + wrap64 n = wrap64 v.toNat + wrap64 n := by rw [wrap64_toNat]
    _ = wrap64 (v.toNat + n) := (BitVec.ofInt_add v.toNat n).symm

/-- An upper immediate is the immediate times 4096 (30_encoding.md R130). -/
theorem immUpper_eq_wrap64 (imm : Int) : immUpper imm = wrap64 (imm * 4096) := by
  rw [immUpper, BitVec.shiftLeft_eq_mul_twoPow]
  exact (BitVec.ofInt_mul imm 4096).symm

theorem toNat_wrap64 (n : Int) : ((wrap64 n).toNat : Int) = n % 2 ^ 64 := by
  rw [wrap64, BitVec.toNat_ofInt]
  exact Int.toNat_of_nonneg (Int.emod_nonneg n (by decide))

/-! The comparisons as mathematics (00_scope.md R11). -/

theorem lessSigned_iff {a b : Word} : lessSigned a b = true ↔ a.toInt < b.toInt :=
  decide_eq_true_iff

theorem lessUnsigned_iff {a b : Word} : lessUnsigned a b = true ↔ (a.toNat : Int) < b.toNat := by
  rw [lessUnsigned, decide_eq_true_iff, Int.ofNat_lt]

theorem beq_iff_toNat_eq {a b : Word} : (a == b) = true ↔ (a.toNat : Int) = b.toNat := by
  rw [beq_iff_eq, Int.natCast_inj, BitVec.toNat_inj]

/-- The opposite test decides the negated condition, as BNE, BGE and BGEU do. -/
theorem not_eq_true_iff_not {b : Bool} {c : Prop} (h : b = true ↔ c) : (!b) = true ↔ ¬c := by
  rw [Bool.not_eq_true', ← Bool.not_eq_true, h]

/-! An instruction that a comparison decides. -/

theorem completes_of_regOp_boolWord {i : Instr} {s : State} {rd : Nat} {b : Bool} {c : Prop} [Decidable c]
    (hexec : exec i s = regOp rd (boolWord b) s) (hb : b = true ↔ c) :
    Completes i s fun t => WritesReg s t rd (if c then 1 else 0) := by
  have hv : boolWord b = if c then 1 else 0 := if_congr hb rfl rfl
  exact completes_of_regOp hexec fun t hw => hv ▸ hw

theorem completes_of_branchOp {i : Instr} {s : State} {b : Bool} {c : Prop} [Decidable c] {imm : Int}
    (hexec : exec i s = branchOp b imm s) (hb : b = true ↔ c) :
    Completes i s fun t => Jumps s t (wrap64 (if c then s.pc.toNat + imm else s.pc.toNat + 4)) := by
  have htarget : (if b then s.pc + immWord imm else s.pcNext) =
      wrap64 (if c then s.pc.toNat + imm else s.pc.toNat + 4) := by
    rw [apply_ite wrap64, ← pcNext_eq_wrap64, ← add_wrap64]
    exact if_congr hb rfl rfl
  exact ⟨_, hexec, htarget ▸ jumps_setPc s _⟩

/-- Settles O9: each result word is the comparison's truth value, and a wrapped immediate is its remainder, signed or unsigned. -/
theorem setLessThanResults : Obligations.SetLessThanResults := by
  intro s rd rs1 rs2 imm
  rw [← BitVec.toInt_ofInt, ← toNat_wrap64]
  refine ⟨?sltu, ?slti, ?sltiu⟩
  case sltu | sltiu => exact completes_of_regOp_boolWord rfl lessUnsigned_iff
  case slti => exact completes_of_regOp_boolWord rfl lessSigned_iff

/-- Settles O10: three tests and their opposites, each taken exactly when its condition holds. -/
theorem branchResults : Obligations.BranchResults := by
  intro s r1 r2 imm
  refine ⟨?beq, ?bne, ?blt, ?bge, ?bltu, ?bgeu⟩
  case beq => exact completes_of_branchOp rfl beq_iff_toNat_eq
  case bne => exact completes_of_branchOp rfl (not_eq_true_iff_not beq_iff_toNat_eq)
  case blt => exact completes_of_branchOp rfl lessSigned_iff
  case bge => exact completes_of_branchOp rfl ((not_eq_true_iff_not lessSigned_iff).trans not_lt)
  case bltu => exact completes_of_branchOp rfl lessUnsigned_iff
  case bgeu => exact completes_of_branchOp rfl ((not_eq_true_iff_not lessUnsigned_iff).trans not_lt)

/-- Settles O11: the sums the two instructions form are those of the pc with the immediate, scaled or not, wrapped. -/
theorem pcRelativeResults : Obligations.PcRelativeResults := by
  intro s rd imm
  rw [← pcNext_eq_wrap64, ← add_wrap64, ← add_wrap64, ← immUpper_eq_wrap64]
  refine ⟨?auipc, ?jal⟩
  case auipc => exact completes_of_regOp rfl fun _ hw => hw
  case jal => exact ⟨_, rfl, writes_writeReg_setPc s rd s.pcNext _⟩

end Sys2Proof.Machine
end

section
/-! Words and instructions (30_encoding.md R134 to R138). Each word type splits a word into the bits its rows fix and the bits its operands fill; writing and reading the operands are inverse to each other, and no word is in two rows. That decoding and encoding are inverse follows. -/

namespace Sys2Proof

open Machine

/-- Which operands the word type can carry: the variant is its own, and every operand is in its field's range. -/
def WordType.admits : WordType → Operands → Bool
  | .r, .rrr rd rs1 rs2 => regOk rd && regOk rs1 && regOk rs2
  | .i, .rri rd rs1 imm => regOk rd && regOk rs1 && imm12Ok imm
  | .shift64, .rri rd rs1 imm => regOk rd && regOk rs1 && shamt6Ok imm
  | .shift32, .rri rd rs1 imm => regOk rd && regOk rs1 && shamt5Ok imm
  | .u, .ri rd imm => regOk rd && imm20Ok imm
  | .fixed, .noOperands => true
  | .load, .ror base rd offset => regOk base && regOk rd && imm12Ok offset
  | .s, .ror base rs2 offset => regOk base && regOk rs2 && imm12Ok offset
  | .b, .rri r1 r2 imm => regOk r1 && regOk r2 && immBranchOk imm
  | .j, .ri rd imm => regOk rd && immJumpOk imm
  | _, _ => false

theorem Instr.wf_eq_admits (i : Instr) : i.wf = i.tag.row.wordType.admits i.operands := by
  cases i <;> rfl

/-- The bits of a word type that no operand reaches. -/
def WordType.mask : WordType → InstrWord
  | .r | .shift32 => 0xfe00707f
  | .shift64 => 0xfc00707f
  | .i | .load | .s | .b => 0x0000707f
  | .u | .j => 0x0000007f
  | .fixed => 0xffffffff

theorem Tag.row_mask (t : Tag) : t.row.mask = t.row.wordType.mask := by
  cases t <;> rfl

/-! The operands a word shows, written back. -/

/-- Writing the operands a word shows gives the word back, but for the bits no operand reaches: each bit stands in one field or in none. -/
theorem fieldsWord_operandsOfWord (w : InstrWord) (ty : WordType) :
    fieldsWord ty (operandsOfWord w ty) = w &&& ~~~ty.mask := by
  apply BitVec.eq_of_getLsbD_eq
  intro j hj
  cases ty
  all_goals
    simp only [operandsOfWord, fieldsWord, fieldRd, fieldRs1, fieldRs2, iImm, sImm, bImm, uImm, jImm, shamt6, shamt5,
      WordType.mask, BitVec.ofInt_toInt, BitVec.ofInt_natCast, BitVec.ofNat_toNat, BitVec.setWidth_eq,
      BitVec.getLsbD_append, BitVec.getLsbD_extractLsb]
    interval_cases j <;> simp

/-! The operands of a word read back: a field holds a register number, an immediate or a shift amount exactly when it is in range. -/

theorem regOk_toNat (x : BitVec 5) : regOk x.toNat = true :=
  decide_eq_true (Nat.le_of_lt_succ x.isLt)

theorem imm12Ok_toInt (x : BitVec 12) : imm12Ok x.toInt = true :=
  decide_eq_true ⟨x.le_toInt, Int.le_of_lt_add_one x.toInt_lt⟩

theorem imm20Ok_toInt (x : BitVec 20) : imm20Ok x.toInt = true :=
  decide_eq_true ⟨x.le_toInt, Int.le_of_lt_add_one x.toInt_lt⟩

theorem shamt6Ok_toNat (x : BitVec 6) : shamt6Ok x.toNat = true :=
  decide_eq_true ⟨Int.natCast_nonneg _, Int.ofNat_le.mpr (Nat.le_of_lt_succ x.isLt)⟩

theorem shamt5Ok_toNat (x : BitVec 5) : shamt5Ok x.toNat = true :=
  decide_eq_true ⟨Int.natCast_nonneg _, Int.ofNat_le.mpr (Nat.le_of_lt_succ x.isLt)⟩

/-- A branch or jump offset ends in a 0 that the word does not store. -/
theorem toInt_append_zero {n : Nat} (x : BitVec (n + 1)) : (x ++ 0#1).toInt = 2 * x.toInt := by
  rw [BitVec.toInt_append]
  simp

theorem immBranchOk_toInt (x : BitVec 12) : immBranchOk (x ++ 0#1).toInt = true := by
  have hlo := x.le_toInt
  have hhi := x.toInt_lt
  rw [toInt_append_zero]
  exact decide_eq_true (by omega)

theorem immJumpOk_toInt (x : BitVec 20) : immJumpOk (x ++ 0#1).toInt = true := by
  have hlo := x.le_toInt
  have hhi := x.toInt_lt
  rw [toInt_append_zero]
  exact decide_eq_true (by omega)

theorem toNat_ofNat_of_regOk {r : Nat} (h : regOk r = true) : (BitVec.ofNat 5 r).toNat = r :=
  Nat.mod_eq_of_lt (Nat.lt_succ_of_le (of_decide_eq_true h))

/-- A two's-complement field holds every integer of its range. -/
theorem toInt_ofInt_of_range {n : Nat} {imm : Int} (h : -(2 ^ n : Int) ≤ imm ∧ imm < 2 ^ n) :
    (BitVec.ofInt (n + 1) imm).toInt = imm := by
  rw [BitVec.toInt_ofInt]
  apply Int.bmod_eq_of_le <;> push_cast <;> rw [pow_succ] <;> omega

theorem toInt_ofInt_of_imm12Ok {imm : Int} (h : imm12Ok imm = true) : (BitVec.ofInt 12 imm).toInt = imm := by
  have hrange := of_decide_eq_true h
  exact toInt_ofInt_of_range (by omega)

theorem toInt_ofInt_of_imm20Ok {imm : Int} (h : imm20Ok imm = true) : (BitVec.ofInt 20 imm).toInt = imm := by
  have hrange := of_decide_eq_true h
  exact toInt_ofInt_of_range (by omega)

/-- A field of shift amounts holds every amount of its range. -/
theorem toNat_ofInt_of_range {n : Nat} {imm : Int} (h : 0 ≤ imm ∧ imm < 2 ^ n) : ((BitVec.ofInt n imm).toNat : Int) = imm := by
  rw [BitVec.toNat_ofInt]
  push_cast
  obtain ⟨hlo, hhi⟩ := h
  rw [Int.emod_eq_of_lt hlo hhi]
  omega

theorem toNat_ofInt_of_shamt6Ok {imm : Int} (h : shamt6Ok imm = true) : ((BitVec.ofInt 6 imm).toNat : Int) = imm := by
  have hrange := of_decide_eq_true h
  exact toNat_ofInt_of_range (by omega)

theorem toNat_ofInt_of_shamt5Ok {imm : Int} (h : shamt5Ok imm = true) : ((BitVec.ofInt 5 imm).toNat : Int) = imm := by
  have hrange := of_decide_eq_true h
  exact toNat_ofInt_of_range (by omega)

theorem extractLsb'_whole {n start : Nat} (x : BitVec n) (h : start = 0) : x.extractLsb' start n = x := by
  subst h
  exact BitVec.extractLsb'_eq_self

/-- An even offset is its upper bits followed by the 0 that the word does not store. -/
theorem toInt_extractLsb'_append_zero {n : Nat} {imm : Int} (hrange : -(2 ^ n : Int) ≤ imm ∧ imm < 2 ^ n) (heven : imm % 2 = 0) :
    ((BitVec.ofInt (n + 1) imm).extractLsb' 1 n ++ 0#1).toInt = imm := by
  have hzero : 0#1 = (BitVec.ofInt (n + 1) imm).extractLsb' 0 1 := by
    have hmod : imm % 2 ^ (n + 1) % 2 = imm % 2 := Int.emod_emod_of_dvd imm (dvd_pow_self 2 n.succ_ne_zero)
    have hnonneg : 0 ≤ imm % 2 ^ (n + 1) := Int.emod_nonneg imm (by positivity)
    apply BitVec.eq_of_toNat_eq
    rw [BitVec.extractLsb'_toNat, BitVec.toNat_ofInt, Nat.shiftRight_zero]
    push_cast
    omega
  rw [hzero, BitVec.extractLsb'_append_extractLsb'_eq_extractLsb' (start₁ := 0) (len₁ := 1) rfl, extractLsb'_whole _ rfl,
    toInt_ofInt_of_range hrange]

theorem toInt_branchPieces {imm : Int} (h : immBranchOk imm = true) :
    ((BitVec.ofInt 13 imm).extractLsb' 1 12 ++ 0#1).toInt = imm := by
  obtain ⟨hlo, hhi, heven⟩ := of_decide_eq_true h
  exact toInt_extractLsb'_append_zero (by omega) heven

theorem toInt_jumpPieces {imm : Int} (h : immJumpOk imm = true) :
    ((BitVec.ofInt 21 imm).extractLsb' 1 20 ++ 0#1).toInt = imm := by
  obtain ⟨hlo, hhi, heven⟩ := of_decide_eq_true h
  exact toInt_extractLsb'_append_zero (by omega) heven

/-- Operands in range come back from the word they are written to. -/
theorem operandsOfWord_fieldsWord {ty : WordType} {o : Operands} (h : ty.admits o = true) :
    operandsOfWord (fieldsWord ty o) ty = o := by
  cases ty <;> cases o
  any_goals cases h
  case fixed.noOperands => rfl
  all_goals
    simp only [WordType.admits, Bool.and_eq_true] at h
    simp (disch := decide) only [operandsOfWord, fieldsWord, fieldRd, fieldRs1, fieldRs2, iImm, sImm, bImm, uImm, jImm,
      shamt6, shamt5, BitVec.extractLsb, BitVec.extractLsb'_append_eq_of_add_le, BitVec.extractLsb'_append_eq_of_le,
      extractLsb'_whole, BitVec.extractLsb'_append_extractLsb'_eq_extractLsb']
    simp only [toNat_ofNat_of_regOk, toInt_ofInt_of_imm12Ok, toInt_ofInt_of_imm20Ok, toNat_ofInt_of_shamt6Ok,
      toNat_ofInt_of_shamt5Ok, h]
  case b.rri => exact congrArg (Operands.rri _ _) (toInt_branchPieces h.2)
  case j.ri => exact congrArg (Operands.ri _) (toInt_jumpPieces h.2)

/-- The operands a word shows are in range. -/
theorem admits_operandsOfWord (w : InstrWord) (ty : WordType) : ty.admits (operandsOfWord w ty) = true := by
  cases ty
  all_goals
    simp only [operandsOfWord, WordType.admits, fieldRd, fieldRs1, fieldRs2, iImm, sImm, uImm, shamt6, shamt5,
      Bool.and_eq_true, regOk_toNat, imm12Ok_toInt, imm20Ok_toInt, shamt6Ok_toNat, shamt5Ok_toNat, and_true, true_and]
  case b => exact immBranchOk_toInt _
  case j => exact immJumpOk_toInt _

/-- The operands are read off the bits that no row fixes. -/
theorem operandsOfWord_congr {w w' : InstrWord} {ty : WordType} (h : w &&& ~~~ty.mask = w' &&& ~~~ty.mask) :
    operandsOfWord w ty = operandsOfWord w' ty := by
  rw [← operandsOfWord_fieldsWord (admits_operandsOfWord w ty), ← operandsOfWord_fieldsWord (admits_operandsOfWord w' ty),
    fieldsWord_operandsOfWord, fieldsWord_operandsOfWord, h]

/-- Operands in range are written outside the bits that a row fixes. -/
theorem fieldsWord_and_not_mask {ty : WordType} {o : Operands} (h : ty.admits o = true) :
    fieldsWord ty o &&& ~~~ty.mask = fieldsWord ty o := by
  conv_rhs => rw [← operandsOfWord_fieldsWord h]
  exact (fieldsWord_operandsOfWord _ ty).symm

/-! The rows of the opcode map (30_encoding.md R138). -/

theorem Tag.mem_all (t : Tag) : t ∈ Tag.all := by
  cases t <;> decide

theorem Tag.bits_and_mask (t : Tag) : t.row.bits &&& t.row.mask = t.row.bits := by
  cases t <;> rfl

/-- Two rows that agree wherever both fix a bit are one row. -/
theorem Tag.row_inj :
    ∀ t ∈ Tag.all, ∀ t' ∈ Tag.all, t.row.bits &&& t'.row.mask = t'.row.bits &&& t.row.mask → t = t' := by
  decide

theorem Tag.matchesWord_iff {t : Tag} {w : InstrWord} : t.matchesWord w = true ↔ w &&& t.row.mask = t.row.bits :=
  beq_iff_eq

theorem Tag.matchesWord_unique {t t' : Tag} {w : InstrWord} (h : w &&& t.row.mask = t.row.bits)
    (h' : w &&& t'.row.mask = t'.row.bits) : t = t' := by
  apply Tag.row_inj t t.mem_all t' t'.mem_all
  rw [← h, ← h', BitVec.and_assoc, BitVec.and_assoc, BitVec.and_comm t.row.mask]

theorem recordOfWord_of_matches {t : Tag} {w : InstrWord} (h : w &&& t.row.mask = t.row.bits) :
    recordOfWord w = ⟨.known t, operandsOfWord w t.row.wordType⟩ := by
  unfold recordOfWord
  split
  · next t' ht' =>
    have hmatch : t'.matchesWord w = true := List.find?_some (p := fun t : Tag => t.matchesWord w) ht'
    rw [Tag.matchesWord_unique h (Tag.matchesWord_iff.mp hmatch)]
  · next hnone => exact absurd (Tag.matchesWord_iff.mpr h) (List.find?_eq_none.mp hnone t t.mem_all)

theorem recordOfWord_of_no_match {w : InstrWord} (h : ∀ t : Tag, w &&& t.row.mask ≠ t.row.bits) :
    recordOfWord w = ⟨.other w.toNat, .noOperands⟩ := by
  have hnone : Tag.all.find? (fun t : Tag => t.matchesWord w) = none :=
    List.find?_eq_none.mpr fun t _ => mt Tag.matchesWord_iff.mp (h t)
  unfold recordOfWord
  rw [hnone]

theorem matches_of_recordOfWord {w : InstrWord} {t : Tag} (h : (recordOfWord w).op = .known t) :
    w &&& t.row.mask = t.row.bits := by
  by_cases hmatch : ∃ t' : Tag, w &&& t'.row.mask = t'.row.bits
  · obtain ⟨t', ht'⟩ := hmatch
    rw [recordOfWord_of_matches ht'] at h
    cases h
    exact ht'
  · rw [recordOfWord_of_no_match (not_exists.mp hmatch)] at h
    cases h

/-! The encoder against the decoder. -/

/-- Fixed bits and free bits joined are told apart by the mask. -/
theorem or_and_mask {n : Nat} {fixed free mask : BitVec n} (hfixed : fixed &&& mask = fixed) (hfree : free &&& ~~~mask = free) :
    (fixed ||| free) &&& mask = fixed ∧ (fixed ||| free) &&& ~~~mask = free := by
  have hfixed' : fixed &&& ~~~mask = 0#n := by
    rw [← hfixed, BitVec.and_assoc, BitVec.and_not_self]
    exact BitVec.and_zero
  have hfree' : free &&& mask = 0#n := by
    rw [← hfree, BitVec.and_assoc, BitVec.and_comm (~~~mask), BitVec.and_not_self]
    exact BitVec.and_zero
  rw [BitVec.and_or_distrib_right, BitVec.and_or_distrib_right, hfixed, hfree, hfixed', hfree']
  exact ⟨BitVec.or_zero, BitVec.zero_or⟩

/-- The word of a well-formed instruction is in its row, and its free bits are the operand fields. -/
theorem encode_and_mask {i : Instr} (h : i.wf = true) :
    encode i &&& i.tag.row.mask = i.tag.row.bits ∧
      encode i &&& ~~~i.tag.row.mask = fieldsWord i.tag.row.wordType i.operands := by
  rw [Instr.wf_eq_admits] at h
  refine or_and_mask i.tag.bits_and_mask ?_
  rw [Tag.row_mask]
  exact fieldsWord_and_not_mask h

theorem record_instr (i : Instr) : i.record.instr = .ok i := by
  cases i <;> rfl

theorem recordOfWord_encode {i : Instr} (h : i.wf = true) : recordOfWord (encode i) = i.record := by
  obtain ⟨hrow, hfree⟩ := encode_and_mask h
  rw [Instr.wf_eq_admits] at h
  have hoperands : operandsOfWord (encode i) i.tag.row.wordType = i.operands := by
    rw [← operandsOfWord_fieldsWord h, ← hfree, Tag.row_mask]
    exact operandsOfWord_congr (by rw [BitVec.and_assoc, BitVec.and_self])
  rw [recordOfWord_of_matches hrow, hoperands]
  rfl

/-- Settles O44: the word is in its instruction's row and in no other, and its free bits hold the operands. -/
theorem decodeOfEncode : Obligations.DecodeOfEncode := by
  intro i hwf
  rw [decodeWord, recordOfWord_encode hwf, record_instr]

/-- Settles O45: the row fixes the word's bits under its mask, and the operands fix the others. -/
theorem encodeOfDecode : Obligations.EncodeOfDecode := by
  intro w i h
  have hrecord : i.record = recordOfWord w := record_of_instr h
  have hrow : w &&& i.tag.row.mask = i.tag.row.bits := matches_of_recordOfWord (by rw [← hrecord]; rfl)
  have hoperands : i.operands = operandsOfWord w i.tag.row.wordType := by
    rw [recordOfWord_of_matches hrow] at hrecord
    exact congrArg Record.operands hrecord
  refine ⟨?wf, ?word⟩
  case wf =>
    rw [Instr.wf_eq_admits, hoperands]
    exact admits_operandsOfWord w _
  case word =>
    rw [encode, hoperands, fieldsWord_operandsOfWord, ← hrow, ← Tag.row_mask, ← BitVec.and_or_distrib_left,
      BitVec.or_not_self, BitVec.and_allOnes]

/-- Settles O46: two rows of one word agree wherever both fix a bit, so they are one row. -/
theorem atMostOneRowMatches : Obligations.AtMostOneRowMatches :=
  fun _ _ _ h h' => Tag.matchesWord_unique h h'

/-! Words that match no row (30_encoding.md R137). -/

/-- A field that a row fixes is the same in every word of the row. -/
theorem extractLsb_of_matches {t : Tag} {w : InstrWord} {hi lo : Nat} (h : w &&& t.row.mask = t.row.bits)
    (hmask : t.row.mask.extractLsb hi lo = BitVec.allOnes _) : w.extractLsb hi lo = t.row.bits.extractLsb hi lo := by
  rw [← h, BitVec.extractLsb_and, hmask, BitVec.and_allOnes]

theorem opcode_of_matches {t : Tag} {w : InstrWord} (h : w &&& t.row.mask = t.row.bits) :
    w.extractLsb 6 0 = t.row.bits.extractLsb 6 0 :=
  extractLsb_of_matches h (by cases t <;> rfl)

theorem no_row_of_fence {w : InstrWord} (h : w.extractLsb 6 0 = 0x0F) (t : Tag) : w &&& t.row.mask ≠ t.row.bits := by
  have hopcode : ∀ t ∈ Tag.all, t.row.bits.extractLsb 6 0 ≠ 0x0F := by decide
  intro hrow
  exact hopcode t t.mem_all ((opcode_of_matches hrow).symm.trans h)

/-- ECALL's row is the only one of its opcode, and it fixes every bit. -/
theorem no_row_of_system {w : InstrWord} (h : w.extractLsb 6 0 = 0x73) (hne : w ≠ 0x00000073) (t : Tag) :
    w &&& t.row.mask ≠ t.row.bits := by
  have hopcode : ∀ t ∈ Tag.all, t.row.bits.extractLsb 6 0 = 0x73 → t = .ecall := by decide
  intro hrow
  obtain rfl := hopcode t t.mem_all ((opcode_of_matches hrow).symm.trans h)
  exact hne (BitVec.and_allOnes.symm.trans hrow)

/-- Of the rows of opcode 0x1B, ADDIW's has another funct3, and the three shifts fix bit 25 to 0. -/
theorem no_row_of_wide_shift32 {w : InstrWord} (h : w.extractLsb 6 0 = 0x1B)
    (hfunct : w.extractLsb 14 12 = 1 ∨ w.extractLsb 14 12 = 5) (hbit : w.getLsbD 25 = true) (t : Tag) :
    w &&& t.row.mask ≠ t.row.bits := by
  have hopcode : ∀ t ∈ Tag.all, t.row.bits.extractLsb 6 0 = 0x1B →
      t.row.mask.extractLsb 14 12 = BitVec.allOnes _ ∧
        (t.row.bits.extractLsb 14 12 = 0 ∨ t.row.mask.getLsbD 25 = true ∧ t.row.bits.getLsbD 25 = false) := by decide
  intro hrow
  obtain ⟨hmask, hzero | ⟨hmask25, hbits25⟩⟩ := hopcode t t.mem_all ((opcode_of_matches hrow).symm.trans h)
  · rw [extractLsb_of_matches hrow hmask, hzero] at hfunct
    exact absurd hfunct (by decide)
  · rw [← hrow, BitVec.getLsbD_and, hbit, hmask25] at hbits25
    cases hbits25

/-- Settles O48, by evaluating the decoder. -/
theorem listedWordsDecode : Obligations.ListedWordsDecode := by
  unfold Obligations.ListedWordsDecode
  exact ⟨rfl, rfl, rfl, rfl, rfl, rfl, rfl, rfl, rfl, rfl, rfl, rfl⟩

end Sys2Proof
end

section
/-! The invariant of configuration, memory and cache (10_state.md R45, R46; 20_memory.md R84, R86): construction establishes it, every operation, hence every step and every run, keeps it; and what else construction leaves (10_state.md R53). -/

namespace Sys2Proof.Machine

/-! Each operation keeps the invariant. -/

/-- The invariant speaks of the configuration, the memory and the cache lines alone. -/
theorem State.Inv.congr {s t : State} (h : s.Inv) (hcfg : t.cfg = s.cfg) (hmem : t.mem = s.mem) (hlines : t.lines = s.lines) :
    t.Inv where
  cfgValid := hcfg ▸ h.cfgValid
  linesLength := by rw [hlines, hcfg, h.linesLength]
  memCanonical := hmem ▸ h.memCanonical
  memInSize := by rw [hmem, hcfg]; exact h.memInSize
  linesPlaced := by unfold State.LinesPlaced; rw [hlines, hcfg]; exact h.linesPlaced

/-- A block number is below 2^58, so a line's tag holds it whole. -/
theorem blockOf_lt (a : Word) : blockOf a < 2 ^ 58 :=
  Nat.div_lt_of_lt_mul a.isLt

theorem toNat_tag_lineOf (a : Word) : (lineOf a).tag.toNat = blockOf a :=
  Nat.mod_eq_of_lt ((blockOf_lt a).trans (by decide))

/-- The line an access leaves is the address's own, in its set; the other sets keep theirs. -/
theorem State.Inv.cacheAccess {s : State} (h : s.Inv) (a : Word) : (s.cacheAccess a).Inv where
  cfgValid := by rw [cacheAccess_cfg]; exact h.cfgValid
  linesLength := by rw [length_lines_cacheAccess, cacheAccess_cfg, h.linesLength]
  memCanonical := by rw [cacheAccess_mem]; exact h.memCanonical
  memInSize := by rw [cacheAccess_mem, cacheAccess_cfg]; exact h.memInSize
  linesPlaced := by
    intro k l hl hv
    rw [cacheAccess_cfg]
    by_cases hk : s.setOf a = k
    · subst hk
      rw [cacheAccess_line_same (h.setOf_lt a)] at hl
      obtain rfl := Option.some.inj hl
      rw [toNat_tag_lineOf]
      exact ⟨rfl, blockOf_lt a⟩
    · rw [cacheAccess_line_of_ne hk] at hl
      exact h.linesPlaced k l hl hv

/-- A store inside the memory keeps it canonical and inside its size. -/
theorem State.Inv.memWrite {s : State} (h : s.Inv) {a : Word} {z : AccessSize} (v : Word)
    (hfit : s.offsetOf a + z.bytes ≤ s.cfg.memorySz.toNat) : (s.memWrite a z v).Inv where
  cfgValid := h.cfgValid
  linesLength := h.linesLength
  memCanonical := Memory.wf_writeLE h.memCanonical _ v _
  memInSize := Memory.inSize_writeLE h.memInSize hfit v
  linesPlaced := h.linesPlaced

theorem State.Inv.setPc {s : State} (h : s.Inv) (p : Word) : (s.setPc p).Inv :=
  h.congr rfl rfl rfl

theorem State.Inv.raise {s : State} (h : s.Inv) (k : ExceptionKind) : (s.raise k).Inv :=
  h.congr rfl rfl rfl

theorem State.Inv.present {s : State} (h : s.Inv) (r : Option Record) : (s.present r).Inv :=
  h.congr rfl rfl rfl

theorem State.Inv.presentDump {s : State} (h : s.Inv) : s.presentDump.Inv :=
  h.congr rfl rfl rfl

theorem State.Inv.writeReg {s : State} (h : s.Inv) (rd : Nat) (v : Word) : (s.writeReg rd v).Inv :=
  h.congr (writeReg_cfg s rd v) (writeReg_mem s rd v) (writeReg_lines s rd v)

/-- A checked load or store keeps the invariant: its offsets lie inside the memory. -/
theorem AccessEffect.inv {s t : State} {z : AccessSize} {n : Int} (heff : AccessEffect s z (wrap64 n) t)
    (hw : InDataWindow s.cfg n z.bytes) (h : s.Inv) : t.Inv := by
  rcases heff with ⟨rd, v, rfl⟩ | ⟨rs2, rfl⟩
  · exact ((h.cacheAccess _).writeReg rd v).setPc _
  · refine ((h.cacheAccess _).memWrite _ ?_).setPc _
    rw [State.offsetOf, cacheAccess_cfg]
    exact offset_inSize hw

theorem State.Inv.exec {s t : State} (h : s.Inv) {i : Instr} (hexec : exec i s = .next t) : t.Inv := by
  rcases exec_next hexec with ⟨-, -, rd, v, p, rfl⟩ | ⟨-, hcall⟩ | ⟨-, z, base, offset, ⟨-, rfl⟩ | ⟨hw, heff⟩⟩
  · exact (h.writeReg rd v).setPc p
  · rcases hcall with ⟨-, rfl⟩ | ⟨-, rfl⟩ | ⟨-, -, rfl⟩
    · exact h.presentDump.setPc _
    · exact h.raise _
    · exact h.raise _
  · exact h.raise _
  · exact heff.inv hw h

theorem State.Inv.step {s t : State} (h : s.Inv) (hstep : step s = .next t) : t.Inv := by
  obtain ⟨-, ⟨c, -, rfl⟩ | ⟨i, -, hexec⟩⟩ := step_next hstep
  · exact (h.present none).raise _
  · exact (h.present _).exec hexec

/-- Settles O37: a step is made of operations that each keep the invariant. -/
theorem stepKeepsInvariant : Obligations.StepKeepsInvariant :=
  fun _ _ h hstep => h.step hstep

/-- Settles O38, from the step by the induction over the run's length. -/
theorem runKeepsInvariant : Obligations.RunKeepsInvariant :=
  fun n _ _ h hrun => run_keeps (M := Sys2Proof.core) (P := State.Inv) (fun _ _ hstep hs => hs.step hstep) n hrun h

/-! Construction. -/

/-- Construction lists no offset beyond the size. -/
theorem mem_initialMemory {size : Nat} {f : Nat → Byte} {c : Host.Cell} (h : c ∈ initialMemory size f) : c.1 < size := by
  obtain ⟨k, hk, hc⟩ := List.mem_filterMap.mp h
  split at hc
  · cases hc
  · obtain rfl := Option.some.inj hc
    exact List.mem_range.mp hk

theorem getElem?_initialLines {sets k : Nat} (tagInit : Nat → Word) (h : k < sets) :
    (initialLines sets tagInit)[k]? = some ⟨false, tagInit k⟩ := by
  simp [initialLines, h]

@[simp] theorem length_initialLines (sets : Nat) (tagInit : Nat → Word) : (initialLines sets tagInit).length = sets := by
  simp [initialLines]

theorem constructed_inv {c : Config} (h : c.Valid) (prog : List Record) (regInit : Nat → Word) (memInit : Nat → Byte)
    (tagInit : Nat → Word) : (constructed c prog regInit memInit tagInit).Inv where
  cfgValid := h
  linesLength := length_initialLines _ _
  memCanonical := wf_initialMemory _ _
  memInSize := fun _ hc => mem_initialMemory hc
  linesPlaced := by
    intro k l hl hv
    have hk : k < (initialLines c.cacheSets tagInit).length := (List.getElem?_eq_some_iff.mp hl).1
    rw [length_initialLines] at hk
    rw [constructed, getElem?_initialLines tagInit hk] at hl
    obtain rfl := Option.some.inj hl
    cases hv

theorem construct_invalid {c : Config} (h : ¬ c.Valid) (prog : List Record) (regInit : Nat → Word) (memInit : Nat → Byte)
    (tagInit : Nat → Word) : construct c prog regInit memInit tagInit = .error .configError :=
  if_neg h

theorem construct_valid {c : Config} (h : c.Valid) (prog : List Record) (regInit : Nat → Word) (memInit : Nat → Byte)
    (tagInit : Nat → Word) : construct c prog regInit memInit tagInit = .ok (constructed c prog regInit memInit tagInit) :=
  if_pos h

/-- Settles O40: the memory and the lines that construction lists are canonical, in size and invalid. -/
theorem constructionMeetsInvariant : Obligations.ConstructionMeetsInvariant :=
  fun _ prog regInit memInit tagInit =>
    ⟨fun h => construct_invalid h prog regInit memInit tagInit,
      fun h => ⟨_, construct_valid h prog regInit memInit tagInit, constructed_inv h prog regInit memInit tagInit⟩⟩

/-- Settles O39: the reset state is a construction from a valid configuration. -/
theorem resetMeetsInvariant : Obligations.ResetMeetsInvariant := by
  obtain ⟨hv, hreset⟩ := (construct_ok_iff _ _ _ _ _ _).mp construct_reset
  unfold Obligations.ResetMeetsInvariant
  rw [hreset]
  exact constructed_inv hv _ _ _ _

/-- The listing of `f` over a range of offsets reads as `f` there. -/
theorem get_filterMap_range' (f : Nat → Byte) {lo n off : Nat} (hlo : lo ≤ off) (hhi : off < lo + n) :
    Memory.get off ((List.range' lo n).filterMap fun k => if f k = Memory.unlisted then none else some (k, f k)) = f off := by
  induction n generalizing lo with
  | zero => omega
  | succ n ih =>
    have hwf := Memory.wfFrom_filterMap f (lo + 1) n
    rw [List.range'_succ, List.filterMap_cons]
    rcases hlo.eq_or_lt with rfl | hlt
    · by_cases hf : f lo = Memory.unlisted
      · simp only [hf, if_true]
        exact Memory.get_below hwf (by omega)
      · simp only [hf, if_false, Memory.get, if_true]
    · have ih := ih (lo := lo + 1) (by omega) (by omega)
      by_cases hf : f lo = Memory.unlisted
      · simp only [hf, if_true]
        exact ih
      · simp only [hf, if_false, Memory.get]
        rw [if_neg (by omega)]
        exact ih

theorem get_initialMemory (f : Nat → Byte) {size off : Nat} (h : off < size) : (initialMemory size f).get off = f off := by
  unfold initialMemory
  rw [List.range_eq_range']
  exact get_filterMap_range' f (Nat.zero_le off) (by omega)

theorem readReg_constructed (c : Config) (prog : List Record) (regInit : Nat → Word) (memInit : Nat → Byte)
    (tagInit : Nat → Word) {k : Nat} (h1 : 1 ≤ k) (h31 : k ≤ 31) :
    (constructed c prog regInit memInit tagInit).readReg k = regInit k := by
  simp [State.readReg, constructed, initialRegs, h1, h31]

/-- Settles O41: each field of the constructed state, and its contents read back. -/
theorem constructionValues : Obligations.ConstructionValues := by
  intro c prog regInit memInit tagInit
  refine ⟨fun h => construct_invalid ?_ prog regInit memInit tagInit, fun hlines hsets => ?valid⟩
  · rintro ⟨hlines, hsets⟩
    exact h.elim (· hlines) hsets.ne'
  case valid =>
    refine ⟨_, construct_valid ⟨hlines, Nat.pos_of_ne_zero hsets⟩ prog regInit memInit tagInit, readReg_zero _,
      fun k => readReg_constructed c prog regInit memInit tagInit, rfl, fun off hoff => ?bytes,
      fun k hk => ⟨_, getElem?_initialLines tagInit hk, rfl⟩, length_initialLines _ _, rfl, rfl, rfl, rfl, rfl⟩
    case bytes => exact (if_pos hoff).trans (get_initialMemory memInit hoff)

end Sys2Proof.Machine
end

section
/-! The instructions whose result rests on a decision of the spec (92_eei_decisions.md D1, D4 to D8, D18, D19, D27): sums and differences, SRLW, LUI, SLT, JALR and ECALL. The frames are those of `regOp` and `linkOp`; what is left is each value as mathematics. -/

namespace Sys2Proof.Machine

open Sys2Proof.Claims

/-! Sums and differences, of 64 and of 32 bits. -/

theorem ofInt_sub {n : Nat} (a b : Int) : BitVec.ofInt n (a - b) = BitVec.ofInt n a - BitVec.ofInt n b := by
  rw [Int.sub_eq_add_neg, BitVec.ofInt_add, BitVec.ofInt_neg, BitVec.sub_eq_add_neg]

theorem readReg_add_readReg (s : State) (j k : Nat) : s.readReg j + s.readReg k = wrap64 (uReg s j + uReg s k) := by
  rw [← wrap64_uReg s j, ← wrap64_uReg s k]
  exact (BitVec.ofInt_add _ _).symm

theorem readReg_sub_readReg (s : State) (j k : Nat) : s.readReg j - s.readReg k = wrap64 (uReg s j - uReg s k) := by
  rw [← wrap64_uReg s j, ← wrap64_uReg s k]
  exact (ofInt_sub _ _).symm

theorem readReg_add_immWord (s : State) (k : Nat) (imm : Int) : s.readReg k + immWord imm = wrap64 (uReg s k + imm) :=
  add_wrap64 (s.readReg k) imm

/-- The low 32 bits of a wrapped integer are the integer wrapped to 32 bits. -/
theorem trunc32_wrap64 (n : Int) : trunc32 (wrap64 n) = BitVec.ofInt 32 n := by
  apply BitVec.eq_of_toNat_eq
  rw [trunc32, toNat_setWidth_wrap64 (by decide), BitVec.toNat_ofInt]
  rfl

theorem trunc32_readReg (s : State) (k : Nat) : trunc32 (s.readReg k) = BitVec.ofInt 32 (uReg s k) := by
  rw [← trunc32_wrap64, wrap64_uReg]

theorem toInt_wResult_ofInt (n : Int) : (wResult (BitVec.ofInt 32 n)).toInt = sint32 n := by
  rw [toInt_wResult, BitVec.toInt_ofInt]
  rfl

/-- Settles O1: the word operations are the integer operations wrapped. -/
theorem addSubAddiResults : Obligations.AddSubAddiResults := by
  intro s rd rs1 rs2 imm
  rw [← readReg_add_readReg, ← readReg_sub_readReg, ← readReg_add_immWord]
  exact ⟨completes_of_regOp rfl fun _ hw => hw, completes_of_regOp rfl fun _ hw => hw, completes_of_regOp rfl fun _ hw => hw⟩

/-- Settles O4: the low halves' sum or difference is the exact one wrapped to 32 bits, and the sign extension keeps its value. -/
theorem wordAddSubResults : Obligations.WordAddSubResults := by
  intro s rd rs1 rs2 imm
  dsimp only
  refine ⟨?addw, ?subw, ?addiw⟩
  case addw =>
    refine completes_of_regOp rfl fun _ hw => ⟨_, hw, ?_⟩
    rw [trunc32_readReg, trunc32_readReg, ← BitVec.ofInt_add, toInt_wResult_ofInt]
  case subw =>
    refine completes_of_regOp rfl fun _ hw => ⟨_, hw, ?_⟩
    rw [trunc32_readReg, trunc32_readReg, ← ofInt_sub, toInt_wResult_ofInt]
  case addiw =>
    refine completes_of_regOp rfl fun _ hw => ⟨_, hw, ?_⟩
    rw [trunc32_readReg, immWord, trunc32_wrap64, ← BitVec.ofInt_add, toInt_wResult_ofInt]

/-! SRLW and SRLIW, LUI, SLT. -/

theorem toInt_ushiftRight_trunc32_readReg (s : State) (k n : Nat) :
    (wResult (trunc32 (s.readReg k) >>> n)).toInt = sint32 (lowReg s k / 2 ^ n) := by
  rw [toInt_wResult, BitVec.toInt_eq_toNat_bmod, BitVec.toNat_ushiftRight, Nat.shiftRight_eq_div_pow, Int.natCast_div,
    toNat_trunc32_readReg, Int.natCast_pow]
  rfl

/-- Settles O6: the amounts are the shift amounts the model takes, and the 32-bit shift is a quotient. -/
theorem wordLogicalShiftResults : Obligations.WordLogicalShiftResults := by
  intro s rd rs1 rs2 imm
  dsimp only
  rw [← shamt32_readReg, ← shamt32_immWord]
  refine ⟨?srlw, ?srliw⟩
  case srlw | srliw => exact completes_of_regOp rfl fun _ hw => ⟨_, hw, toInt_ushiftRight_trunc32_readReg s rs1 _⟩

/-- Settles O7: an upper immediate is the wrapped product. -/
theorem luiResult : Obligations.LuiResult := by
  intro s rd imm
  rw [← immUpper_eq_wrap64]
  exact completes_of_regOp rfl fun _ hw => hw

/-- Settles O8: the result word is the comparison's truth value. -/
theorem sltResult : Obligations.SltResult :=
  fun _ _ _ _ => completes_of_regOp_boolWord rfl lessSigned_iff

/-! JALR. -/

/-- Clearing bit 0 subtracts it. -/
theorem and_not_one (v : Word) : v &&& ~~~1 = v - (v &&& 1) := by
  have hdisjoint : v &&& ~~~1 &&& (v &&& 1) = 0#64 := by
    rw [BitVec.and_comm v 1, ← BitVec.and_assoc, BitVec.and_assoc v, BitVec.and_comm (~~~1), BitVec.and_not_self]
    simp
  have hsum : (v &&& ~~~1) + (v &&& 1) = v := by
    rw [BitVec.add_eq_or_of_and_eq_zero _ _ hdisjoint, ← BitVec.and_or_distrib_left, BitVec.not_or_self, BitVec.and_allOnes]
  exact BitVec.eq_sub_iff_add_eq.mpr hsum

theorem wrap64_and_one (n : Int) : wrap64 n &&& 1 = wrap64 (n % 2) := by
  apply BitVec.eq_of_toNat_eq
  rw [BitVec.toNat_and, BitVec.toNat_ofInt, BitVec.toNat_ofInt]
  exact (Nat.and_one_is_mod _).trans (by omega)

theorem wrap64_and_not_one (n : Int) : wrap64 n &&& ~~~1 = wrap64 (n - n % 2) := by
  rw [and_not_one, wrap64_and_one]
  exact (ofInt_sub n (n % 2)).symm

/-- Settles O12: the sum is of the base as it was, and clearing bit 0 subtracts its remainder. -/
theorem jalrResult : Obligations.JalrResult := by
  intro s rd base imm
  rw [← wrap64_and_not_one, ← readReg_add_immWord, ← pcNext_eq_wrap64]
  exact ⟨_, rfl, writes_writeReg_setPc s rd s.pcNext _⟩

/-! ECALL. -/

theorem uReg_eq_iff {s : State} {k : Nat} {v : Word} : uReg s k = v.toNat ↔ s.readReg k = v := by
  rw [uReg, Int.natCast_inj, BitVec.toNat_inj]

theorem execEcall_dumps {s : State} (h : s.readReg 17 = 23) : execEcall s = .next (s.presentDump.setPc s.pcNext) :=
  if_pos h

theorem execEcall_exits {s : State} (h : s.readReg 17 = 2) : execEcall s = .next (s.raise .exit) := by
  unfold execEcall
  rw [if_neg (by rw [h]; decide), if_pos h]

theorem execEcall_unknown {s : State} (h23 : s.readReg 17 ≠ 23) (h2 : s.readReg 17 ≠ 2) :
    execEcall s = .next (s.raise .unknownSyscall) := by
  unfold execEcall
  rw [if_neg h23, if_neg h2]

/-- Settles O13: the three cases of ECALL, by the whole of x17. -/
theorem ecallResults : Obligations.EcallResults := by
  intro s
  have hcall : ∀ v : Word, uReg s 17 = v.toNat ↔ s.readReg 17 = v := fun _ => uReg_eq_iff
  refine ⟨fun h => ?dumps, fun h => execEcall_exits ((hcall 2).mp h),
    fun h23 h2 => execEcall_unknown (mt (hcall 23).mpr h23) (mt (hcall 2).mpr h2)⟩
  case dumps =>
    refine ⟨_, execEcall_dumps ((hcall 23).mp h), fun _ => rfl, pcNext_eq_wrap64 s, ⟨rfl, fun _ => rfl⟩, ⟨rfl, rfl, rfl⟩,
      ⟨rfl, rfl, rfl⟩, rfl, _, rfl, rfl, ?_, fun k hk => ?_⟩
    · simp [State.regSnapshot]
    · simp [State.regSnapshot, hk]

end Sys2Proof.Machine
end

section
/-! The form of an instruction: which shared operation gives it its meaning, on which values. The rules about every instruction (10_state.md R32, R34, R38; 20_memory.md R70, R73, R88; 60_exceptions.md R402 to R405; 40_dispatch.md R156, R159) split on it, or on `exec_next` where the operation does not matter. -/

namespace Sys2Proof.Machine

open Sys2Proof.Claims

/-- A value of the state that an instruction may use: it depends on the registers its record names as sources and on the pc alone. -/
def ReadsSources {α : Type} (i : Instr) (f : State → α) : Prop :=
  ∀ s t, (∀ k ∈ sources i, s.readReg k = t.readReg k) → s.pc = t.pc → f s = f t

/-- The shared operation an instruction is, with what its record names: the destination, the sources and the access. -/
inductive ExecForm (i : Instr) : Prop
  | call (hi : i = .ecall)
  | reg (rd : Nat) (v : State → Word) (hexec : ∀ s, exec i s = regOp rd (v s) s) (hdest : dest i = some rd)
      (haccess : access i = none) (hreads : ReadsSources i v)
  | link (rd : Nat) (p : State → Word) (hexec : ∀ s, exec i s = linkOp rd (p s) s) (hdest : dest i = some rd)
      (haccess : access i = none) (hredirects : redirects i = true) (hreads : ReadsSources i p)
  | branch (c : State → Bool) (imm : Int) (hexec : ∀ s, exec i s = branchOp (c s) imm s)
      (haccess : access i = none) (hredirects : redirects i = true) (hreads : ReadsSources i c)
  | load (z : AccessSize) (ext : Word → Word) (base rd : Nat) (offset : Int)
      (hexec : ∀ s, exec i s = loadOp z ext base rd offset s) (hdest : dest i = some rd)
      (haccess : access i = some (base, offset, z.bytes)) (hbase : base ∈ sources i)
  | store (z : AccessSize) (base rs2 : Nat) (offset : Int)
      (hexec : ∀ s, exec i s = storeOp z base rs2 offset s) (hstore : isStore i = true)
      (haccess : access i = some (base, offset, z.bytes)) (hbase : base ∈ sources i) (hdata : rs2 ∈ sources i)

theorem exec_form (i : Instr) : ExecForm i := by
  cases i
  case ecall => exact .call rfl
  case lb | lh | lw | ld | lbu | lhu | lwu => exact .load _ _ _ _ _ (fun _ => rfl) rfl rfl List.mem_cons_self
  case sb | sh | sw | sd =>
    exact .store _ _ _ _ (fun _ => rfl) rfl rfl List.mem_cons_self (List.mem_cons_of_mem _ List.mem_cons_self)
  case beq | bne | blt | bge | bltu | bgeu =>
    exact .branch _ _ (fun _ => rfl) rfl rfl fun s t h _ => by simp_all [sources]
  case jal | jalr =>
    exact .link _ _ (fun _ => rfl) rfl rfl rfl fun s t h hpc => by simp_all [sources, Instr.operands]
  all_goals exact .reg _ _ (fun _ => rfl) rfl rfl fun s t h hpc => by simp_all [sources, Instr.operands]

end Sys2Proof.Machine
end

section
/-! The rules about every instruction: what it raises, what it writes, and which group answers for it. -/

namespace Sys2Proof.Machine

open Sys2Proof.Claims

/-! What an instruction answers: always a state, and a raised exception changes the status alone. -/

theorem memoryOp_total (z : AccessSize) (base : Nat) (offset : Int) (op : Word → State → State) (s : State) :
    ∃ t, memoryOp z base offset op s = .next t := by
  by_cases hw : InDataWindow s.cfg (s.effectiveAddress base offset) z.bytes
  · exact ⟨_, memoryOp_completes op hw⟩
  · exact ⟨_, memoryOp_raises op hw⟩

theorem execEcall_total (s : State) : ∃ t, execEcall s = .next t := by
  by_cases h23 : s.readReg 17 = 23
  · exact ⟨_, execEcall_dumps h23⟩
  · by_cases h2 : s.readReg 17 = 2
    · exact ⟨_, execEcall_exits h2⟩
    · exact ⟨_, execEcall_unknown h23 h2⟩

/-- No instruction stops with a fault or a refusal. -/
theorem exec_total (i : Instr) (s : State) : ∃ t, exec i s = .next t := by
  cases exec_form i with
  | call hi => rw [hi]; exact execEcall_total s
  | reg rd v hexec => exact ⟨_, hexec s⟩
  | link rd p hexec => exact ⟨_, hexec s⟩
  | branch c imm hexec => exact ⟨_, hexec s⟩
  | load z ext base rd offset hexec => rw [hexec]; exact memoryOp_total ..
  | store z base rs2 offset hexec => rw [hexec]; exact memoryOp_total ..

theorem AccessEffect.status {s t : State} {z : AccessSize} {a : Word} (h : AccessEffect s z a t) : t.status = s.status := by
  rcases h with ⟨rd, v, rfl⟩ | ⟨rs2, rfl⟩ <;> simp

/-- Taking an exception is the only way out of Running, and nothing else is written (60_exceptions.md R403, R407). -/
theorem exec_raises {i : Instr} {s t : State} {k : ExceptionKind} (hs : s.status = .running) (h : exec i s = .next t)
    (hk : t.status = .halted k) : t = s.raise k := by
  rcases exec_next h with ⟨-, -, rd, v, p, rfl⟩ | ⟨-, hcall⟩ | ⟨-, z, base, offset, ⟨-, rfl⟩ | ⟨-, heff⟩⟩
  · simp [hs] at hk
  · rcases hcall with ⟨-, rfl⟩ | ⟨-, rfl⟩ | ⟨-, -, rfl⟩
    · simp [hs] at hk
    · cases hk; rfl
    · cases hk; rfl
  · cases hk; rfl
  · rw [heff.status, hs] at hk
    cases hk

/-! Loads and stores. -/

theorem access_isSome (i : Instr) : (access i).isSome = decide (i.group = .memory) := by
  cases i <;> rfl

theorem exec_keeps_status {i : Instr} {s t : State} (hcall : i ≠ .ecall) (haccess : access i = none)
    (h : exec i s = .next t) : t.status = s.status := by
  rcases exec_next h with ⟨-, -, rd, v, p, rfl⟩ | ⟨hi, -⟩ | ⟨hmem, -⟩
  · simp
  · exact absurd hi hcall
  · have hsome := access_isSome i
    rw [haccess, hmem] at hsome
    cases hsome

/-- An instruction that makes an access is `memoryOp` of it, with an operation that touches neither status nor counters. -/
theorem exec_of_access {i : Instr} {base n : Nat} {offset : Int} (h : access i = some (base, offset, n)) (s : State) :
    ∃ (z : AccessSize) (op : Word → State → State), z.bytes = n ∧ exec i s = memoryOp z base offset op s ∧
      ∀ a u, (op a u).status = u.status ∧ (op a u).accesses = u.accesses := by
  cases exec_form i with
  | call hi => rw [hi] at h; cases h
  | reg _ _ _ _ haccess => rw [haccess] at h; cases h
  | link _ _ _ _ haccess => rw [haccess] at h; cases h
  | branch _ _ _ haccess => rw [haccess] at h; cases h
  | load z ext base rd offset hexec _ haccess =>
    rw [haccess] at h
    cases h
    exact ⟨z, _, rfl, hexec s, fun a u => ⟨writeReg_status u _ _, writeReg_accesses u _ _⟩⟩
  | store z base rs2 offset hexec _ haccess =>
    rw [haccess] at h
    cases h
    exact ⟨z, _, rfl, hexec s, fun a u => ⟨rfl, rfl⟩⟩

/-- Settles O17: the data check decides between the raise and the access. -/
theorem memoryFaultExactly : Obligations.MemoryFaultExactly := by
  intro i base offset n s haccess
  obtain ⟨z, op, rfl, hexec, hop⟩ := exec_of_access haccess s
  rw [Completes, hexec]
  refine ⟨fun hw => memoryOp_raises op hw, fun hw => ⟨_, memoryOp_completes op hw, ?_, ?_⟩⟩
  · rw [setPc_status, (hop _ _).1, cacheAccess_status]
  · rw [setPc_accesses, (hop _ _).2, cacheAccess_accesses]

/-- Settles O21: the only register write is of the destination. -/
theorem onlyDestinationWritten : Obligations.OnlyDestinationWritten := by
  intro i s t h
  refine ⟨fun k hk => ?_, readReg_zero t, fun k hk => readReg_above t hk⟩
  have hne : ∀ {rd}, dest i = some rd → k ≠ rd := fun hdest hkrd => hk (hkrd ▸ hdest)
  cases exec_form i with
  | call hi =>
    subst hi
    rcases execEcall_next h with ⟨-, rfl⟩ | ⟨-, rfl⟩ | ⟨-, -, rfl⟩ <;> simp
  | reg rd v hexec hdest =>
    rw [hexec] at h
    rw [regOp_next h, readReg_setPc, readReg_writeReg_of_ne (hne hdest)]
  | link rd p hexec hdest =>
    rw [hexec] at h
    rw [linkOp_next h, readReg_setPc, readReg_writeReg_of_ne (hne hdest)]
  | branch c imm hexec =>
    rw [hexec] at h
    rcases branchOp_next h with ⟨-, rfl⟩ | ⟨-, rfl⟩ <;> simp
  | load z ext base rd offset hexec hdest =>
    rw [hexec] at h
    rcases loadOp_next h with ⟨-, rfl⟩ | ⟨-, rfl⟩
    · simp
    · rw [readReg_setPc, readReg_writeReg_of_ne (hne hdest), readReg_cacheAccess]
  | store z base rs2 offset hexec =>
    rw [hexec] at h
    rcases storeOp_next h with ⟨-, rfl⟩ | ⟨-, rfl⟩ <;> simp

/-- Settles O23: outside the memory group only a register, the pc, the status or the dump port changes; a load writes a register after its access. -/
theorem onlyMemoryGroupTouchesMemory : Obligations.OnlyMemoryGroupTouchesMemory := by
  intro i s t h
  refine ⟨fun hgroup => ?group, fun hstore => ?store⟩
  case group =>
    rcases exec_next h with ⟨-, -, rd, v, p, rfl⟩ | ⟨-, hcall⟩ | ⟨hmem, -⟩
    · simp [SameMemory, SameCache]
    · rcases hcall with ⟨-, rfl⟩ | ⟨-, rfl⟩ | ⟨-, -, rfl⟩ <;> simp [SameMemory, SameCache]
    · exact absurd hmem hgroup
  case store =>
    suffices hsame : t.mem = s.mem ∧ t.cfg = s.cfg from ⟨hsame.1, getByte_congr hsame.1 hsame.2⟩
    cases exec_form i with
    | call hi =>
      subst hi
      rcases execEcall_next h with ⟨-, rfl⟩ | ⟨-, rfl⟩ | ⟨-, -, rfl⟩ <;> simp
    | reg rd v hexec =>
      rw [hexec] at h
      simp [regOp_next h]
    | link rd p hexec =>
      rw [hexec] at h
      simp [linkOp_next h]
    | branch c imm hexec =>
      rw [hexec] at h
      rcases branchOp_next h with ⟨-, rfl⟩ | ⟨-, rfl⟩ <;> simp
    | load z ext base rd offset hexec =>
      rw [hexec] at h
      rcases loadOp_next h with ⟨-, rfl⟩ | ⟨-, rfl⟩ <;> simp
    | store z base rs2 offset _ hisStore => rw [hisStore] at hstore; cases hstore

/-- Settles O24: every operation but a taken branch and a jump advances the pc, and a raise writes the status alone. -/
theorem onlyBranchesRedirect : Obligations.OnlyBranchesRedirect := by
  intro i s t hs h
  refine ⟨fun ht hi => ?advances, fun ht => ?raises⟩
  case raises =>
    cases hk : t.status with
    | running => exact absurd hk ht
    | halted k => rw [exec_raises hs h hk, raise_pc]
  case advances =>
    suffices hpc : t.pc = s.pcNext by rw [PcAdvances, hpc, pcNext_eq_wrap64]
    cases exec_form i with
    | call hi =>
      subst hi
      rcases execEcall_next h with ⟨-, rfl⟩ | ⟨-, rfl⟩ | ⟨-, -, rfl⟩
      · rfl
      · cases ht
      · cases ht
    | reg rd v hexec =>
      rw [hexec] at h
      rw [regOp_next h, setPc_pc]
    | link _ _ _ _ _ hredirects => rw [hredirects] at hi; cases hi
    | branch _ _ _ _ hredirects => rw [hredirects] at hi; cases hi
    | load z ext base rd offset hexec =>
      rw [hexec] at h
      rcases loadOp_next h with ⟨-, rfl⟩ | ⟨-, rfl⟩
      · cases ht
      · rfl
    | store z base rs2 offset hexec =>
      rw [hexec] at h
      rcases storeOp_next h with ⟨-, rfl⟩ | ⟨-, rfl⟩
      · cases ht
      · rfl

/-- Settles O26: ECALL raises by x17, an access raises MemoryFault outside the window, and no other instruction raises. -/
theorem exceptionsOfInstructions : Obligations.ExceptionsOfInstructions := by
  intro i s t k hs h hk
  rcases eq_or_ne i .ecall with rfl | hcall
  · have hreg : ∀ v : Word, uReg s 17 = v.toNat ↔ s.readReg 17 = v := fun _ => uReg_eq_iff
    rcases execEcall_next h with ⟨-, rfl⟩ | ⟨h2, rfl⟩ | ⟨h23, h2, rfl⟩
    · simp [hs] at hk
    · cases hk
      exact .inr (.inl ⟨rfl, rfl, (hreg 2).mpr h2⟩)
    · cases hk
      exact .inr (.inr ⟨rfl, rfl, mt (hreg 2).mp h2, mt (hreg 23).mp h23⟩)
  · cases haccess : access i with
    | none =>
      rw [exec_keeps_status hcall haccess h, hs] at hk
      cases hk
    | some a =>
      obtain ⟨base, offset, n⟩ := a
      obtain ⟨hraises, hcompletes⟩ := memoryFaultExactly i base offset n s haccess
      by_cases hw : InDataWindow s.cfg (ea s base offset) n
      · obtain ⟨u, hu, hstatus, -⟩ := hcompletes hw
        cases hu.symm.trans h
        rw [hstatus, hs] at hk
        cases hk
      · cases (hraises hw).symm.trans h
        cases hk
        exact .inl ⟨rfl, base, offset, n, rfl, hw⟩

/-! The three groups in turn (40_dispatch.md R156, R159). -/

theorem offer_other {i : Instr} {g : HandlerGroup} (h : i.group ≠ g) (s : State) : offer g i s = .notMine :=
  if_neg h

theorem offer_handled {i : Instr} {s t : State} (h : exec i s = .next t) (ht : t.status = .running) :
    offer i.group i s = .handled t := by
  rw [offer, if_pos rfl, h]
  simp only [ht]

theorem offer_exception {i : Instr} {s t : State} {k : ExceptionKind} (h : exec i s = .next t) (hk : t.status = .halted k) :
    offer i.group i s = .exception k := by
  rw [offer, if_pos rfl, h]
  simp only [hk]

/-- The groups before the instruction's own pass it on. -/
theorem dispatch_eq_of_mem {i : Instr} {s t : State} {gs : List HandlerGroup} (hmem : i.group ∈ gs)
    (hown : ∀ gs', dispatch i s (i.group :: gs') = t) : dispatch i s gs = t := by
  induction gs with
  | nil => cases hmem
  | cons g gs ih =>
    by_cases hg : i.group = g
    · subst hg
      exact hown gs
    · rw [dispatch, offer_other hg]
      exact ih ((List.mem_cons.mp hmem).resolve_left hg)

theorem mem_groupOrder (g : HandlerGroup) : g ∈ groupOrder := by
  cases g <;> decide

/-- Settles O27: the instruction's own group answers, with the state `exec` gives or with its exception, and no other does. -/
theorem groupDispatchAgrees : Obligations.GroupDispatchAgrees := by
  intro i s hs
  have hothers : ∀ g, g ≠ i.group → offer g i s = .notMine := fun g hg => offer_other hg.symm s
  obtain ⟨t, h⟩ := exec_total i s
  cases ht : t.status with
  | running =>
    have hoffer := offer_handled h ht
    refine ⟨?_, i.group, mem_groupOrder _, by rw [hoffer]; nofun, hothers⟩
    rw [h, dispatch_eq_of_mem (mem_groupOrder _) fun gs => by rw [dispatch, hoffer]]
  | halted k =>
    have hoffer := offer_exception h ht
    refine ⟨?_, i.group, mem_groupOrder _, by rw [hoffer]; nofun, hothers⟩
    rw [h, exec_raises hs h ht, dispatch_eq_of_mem (mem_groupOrder _) fun gs => by rw [dispatch, hoffer]]

end Sys2Proof.Machine
end

section
/-! What an instruction's sources decide (10_state.md R34, 41_arith_logical.md R217): a register that the record does not name has no influence, and of the sources of a W operation only the low halves have. -/

namespace Sys2Proof.Claims

open Sys2Proof.Machine

/-! Agreement on all but a register is kept by every operation that is given the same values. -/

section Agree

variable {k : Nat} {s t : State} (h : AgreeButReg k s t)
include h

theorem AgreeButReg.setPc (p : Word) : AgreeButReg k (s.setPc p) (t.setPc p) := by
  obtain ⟨hregs, -, hrest⟩ := h
  exact ⟨by simpa using hregs, rfl, hrest⟩

theorem AgreeButReg.raise (e : ExceptionKind) : AgreeButReg k (s.raise e) (t.raise e) := by
  obtain ⟨hregs, hpc, hmem, hlines, haccesses, hmisses, -, hrest⟩ := h
  exact ⟨by simpa using hregs, hpc, hmem, hlines, haccesses, hmisses, rfl, hrest⟩

theorem AgreeButReg.writeReg (rd : Nat) (v : Word) : AgreeButReg k (s.writeReg rd v) (t.writeReg rd v) := by
  obtain ⟨hregs, hrest⟩ := h
  refine ⟨fun j hj => ?_, by simpa using hrest⟩
  rw [readReg_writeReg, readReg_writeReg, hregs j hj]

theorem AgreeButReg.memWrite (a : Word) (z : AccessSize) (v : Word) : AgreeButReg k (s.memWrite a z v) (t.memWrite a z v) := by
  obtain ⟨hregs, hpc, hmem, hlines, haccesses, hmisses, hstatus, hcfg, hrest⟩ := h
  exact ⟨by simpa using hregs, hpc, by simp [State.offsetOf, hmem, hcfg], hlines, haccesses, hmisses, hstatus, hcfg, hrest⟩

theorem AgreeButReg.pc : s.pc = t.pc := by
  obtain ⟨-, hpc, -⟩ := h
  exact hpc

theorem AgreeButReg.cfg : s.cfg = t.cfg := by
  obtain ⟨-, -, -, -, -, -, -, hcfg, -⟩ := h
  exact hcfg

theorem AgreeButReg.readReg {j : Nat} (hj : j ≠ k) : s.readReg j = t.readReg j := by
  obtain ⟨hregs, -⟩ := h
  exact hregs j hj

theorem AgreeButReg.pcNext : s.pcNext = t.pcNext := by
  rw [State.pcNext, State.pcNext, h.pc]

theorem AgreeButReg.memRead : s.memRead = t.memRead := by
  have hcfg := h.cfg
  obtain ⟨-, -, hmem, -⟩ := h
  exact memRead_congr hmem hcfg

theorem AgreeButReg.cacheHit (a : Word) : s.cacheHit a = t.cacheHit a := by
  have hcfg := h.cfg
  obtain ⟨-, -, -, hlines, -⟩ := h
  unfold State.cacheHit State.setOf
  rw [hlines, hcfg]

theorem AgreeButReg.cacheAccess (a : Word) : AgreeButReg k (s.cacheAccess a) (t.cacheAccess a) := by
  have hhit := h.cacheHit a
  obtain ⟨hregs, hpc, hmem, hlines, haccesses, hmisses, hstatus, hcfg, hprog, htrace, hdump⟩ := h
  simp only [AgreeButReg, readReg_cacheAccess, cacheAccess_pc, cacheAccess_mem, cacheAccess_lines, cacheAccess_accesses,
    cacheAccess_misses, cacheAccess_status, cacheAccess_cfg, cacheAccess_prog, cacheAccess_trace, cacheAccess_dump,
    State.setOf, hhit, hpc, hmem, hlines, haccesses, hmisses, hstatus, hcfg, hprog, htrace, hdump, and_true]
  exact hregs

/-- The event of a dump shows every register; the rest of the state still agrees. -/
theorem AgreeButReg.presentDump_setPc (p : Word) :
    AgreeButReg k { s.presentDump.setPc p with dump := none } { t.presentDump.setPc p with dump := none } := by
  obtain ⟨hregs, -, hmem, hlines, haccesses, hmisses, hstatus, hcfg, hprog, htrace, -⟩ := h
  exact ⟨hregs, rfl, hmem, hlines, haccesses, hmisses, hstatus, hcfg, hprog, htrace, rfl⟩

theorem AgreeButReg.withoutDump : AgreeButReg k { s with dump := none } { t with dump := none } := by
  obtain ⟨hregs, hpc, hmem, hlines, haccesses, hmisses, hstatus, hcfg, hprog, htrace, -⟩ := h
  exact ⟨hregs, hpc, hmem, hlines, haccesses, hmisses, hstatus, hcfg, hprog, htrace, rfl⟩

theorem AgreeButReg.memoryOp {z : AccessSize} {base : Nat} {offset : Int} {op op' : Word → State → State}
    (hbase : s.readReg base = t.readReg base) (hop : ∀ a {u v}, AgreeButReg k u v → AgreeButReg k (op a u) (op' a v)) :
    Corresponds (AgreeButReg k) (memoryOp z base offset op s) (memoryOp z base offset op' t) := by
  unfold Machine.memoryOp State.effectiveAddress
  rw [hbase, h.cfg, h.pcNext]
  split
  · exact h.raise _
  · exact (hop _ (h.cacheAccess _)).setPc _

/-- An instruction other than ECALL computes from values on which the two states agree. -/
theorem AgreeButReg.exec {i : Instr} (hk : k ∉ sources i) (hcall : i ≠ .ecall) :
    Corresponds (AgreeButReg k) (exec i s) (exec i t) := by
  have hsource : ∀ j ∈ sources i, s.readReg j = t.readReg j := fun j hj => h.readReg fun hjk => hk (hjk ▸ hj)
  cases exec_form i with
  | call hi => exact absurd hi hcall
  | reg rd v hexec _ _ hreads =>
    rw [hexec, hexec, hreads s t hsource h.pc, regOp, regOp, h.pcNext]
    exact (h.writeReg rd _).setPc _
  | link rd p hexec _ _ _ hreads =>
    rw [hexec, hexec, hreads s t hsource h.pc, linkOp, linkOp, h.pcNext]
    exact (h.writeReg rd _).setPc _
  | branch c imm hexec _ _ hreads =>
    rw [hexec, hexec, hreads s t hsource h.pc, branchOp, branchOp, h.pcNext, h.pc]
    exact h.setPc _
  | load z ext base rd offset hexec _ _ hbase =>
    rw [hexec, hexec]
    refine h.memoryOp (hsource base hbase) fun a u v huv => ?_
    rw [huv.memRead]
    exact huv.writeReg rd _
  | store z base rs2 offset hexec _ _ hbase hdata =>
    rw [hexec, hexec]
    refine h.memoryOp (hsource base hbase) fun a u v huv => ?_
    rw [hsource rs2 hdata]
    exact huv.memWrite a z _

/-- ECALL decides by x17, and shows the other registers on the dump port alone. -/
theorem AgreeButReg.execEcall (hk : k ≠ 17) :
    Corresponds (fun u v => AgreeButReg k { u with dump := none } { v with dump := none }) (execEcall s) (execEcall t) := by
  unfold Machine.execEcall
  rw [h.readReg hk.symm, h.pcNext]
  split
  · exact h.presentDump_setPc _
  · split
    · exact (h.raise _).withoutDump
    · exact (h.raise _).withoutDump

end Agree

end Sys2Proof.Claims

namespace Sys2Proof.Machine

open Sys2Proof.Claims

/-- Settles O22: the values an instruction computes with are those of its sources and the pc, and ECALL's choice is x17's. -/
theorem unnamedRegisterIrrelevant : Obligations.UnnamedRegisterIrrelevant := by
  intro i k s t h hk
  refine ⟨fun hcall => h.exec hk hcall, fun hcall h17 => ?_⟩
  subst hcall
  exact h.execEcall h17

/-! The W operations (41_arith_logical.md R217). -/

theorem trunc32_congr {s t : State} {k : Nat} (h : lowReg s k = lowReg t k) : trunc32 (s.readReg k) = trunc32 (t.readReg k) := by
  rw [← BitVec.toNat_inj, ← Int.natCast_inj, toNat_trunc32_readReg, toNat_trunc32_readReg, h]

theorem shamt32_congr {s t : State} {k : Nat} (h : lowReg s k = lowReg t k) : shamt32 (s.readReg k) = shamt32 (t.readReg k) := by
  rw [shamt32_readReg, shamt32_readReg]
  unfold lowReg at h
  omega

/-- A W operation writes a sign-extended 32-bit result that depends on the low halves of the registers alone. -/
theorem exec_of_isW {i : Instr} (h : isW i = true) :
    ∃ (rd : Nat) (r : State → BitVec 32), dest i = some rd ∧ (∀ s, exec i s = regOp rd (wResult (r s)) s) ∧
      ∀ s t, (∀ k, lowReg s k = lowReg t k) → r s = r t := by
  cases i
  case addw | subw | sllw | srlw | sraw | addiw | slliw | srliw | sraiw =>
    refine ⟨_, _, rfl, fun _ => rfl, fun s t hlow => ?_⟩
    simp only [trunc32_congr (hlow _), shamt32_congr (hlow _)]
  all_goals cases h

/-- The upper half of a sign-extended result repeats bit 31. -/
theorem getLsbD_wResult {r : BitVec 32} {j : Nat} (h32 : 32 ≤ j) (h64 : j < 64) :
    (wResult r).getLsbD j = (wResult r).getLsbD 31 := by
  have hbit : ∀ n, 31 ≤ n → n < 64 → (wResult r).getLsbD n = r.msb := by
    intro n hn hn64
    rw [wResult, BitVec.getLsbD_signExtend, decide_eq_true hn64, Bool.true_and]
    split
    · obtain rfl : n = 31 := by omega
      exact (BitVec.msb_eq_getLsbD_last r).symm
    · rfl
  rw [hbit j (by omega) h64, hbit 31 le_rfl (by decide)]

theorem readReg_absent {k : Nat} (h : ¬(1 ≤ k ∧ k ≤ 31)) (s : State) : s.readReg k = 0 :=
  dif_neg h

/-- Settles O25: both results are the sign extension of one 32-bit value; a destination that is no stored register reads 0. -/
theorem wordOperationsIgnoreUpperHalves : Obligations.WordOperationsIgnoreUpperHalves := by
  intro i s s' t t' hW hlow h h' rd hdest
  obtain ⟨rd', r, hdest', hexec, hr⟩ := exec_of_isW hW
  obtain rfl : rd' = rd := Option.some.inj (hdest'.symm.trans hdest)
  rw [hexec] at h h'
  by_cases hrd : 1 ≤ rd' ∧ rd' ≤ 31
  · rw [regOp_next h, regOp_next h', readReg_setPc, readReg_setPc, readReg_writeReg_same hrd.1 hrd.2,
      readReg_writeReg_same hrd.1 hrd.2, hr s s' hlow]
    exact ⟨rfl, fun j => getLsbD_wResult⟩
  · rw [readReg_absent hrd, readReg_absent hrd]
    simp

end Sys2Proof.Machine
end

section
/-! Loads and stores (42_memory_ops.md R260 to R274): the bytes of an access as a number, the cache access as the spec words it, and what each instruction of the group does inside and outside the data window. -/

namespace Sys2Proof.Machine

open Sys2Proof.Claims

/-! Little-endian numbers (20_memory.md R76, R79). -/

theorem leNat_lt (s : State) (off n : Nat) : leNat s off n < 256 ^ n := by
  induction n generalizing off with
  | zero => exact Nat.one_pos
  | succ n ih =>
    have hbyte := (s.getByte off).isLt
    have hrest := ih (off + 1)
    rw [leNat, pow_succ]
    omega

/-- Up to eight bytes inside the memory are read as the number they spell. -/
theorem toNat_readLE {s : State} {off n : Nat} (hn : n ≤ 8) (hfit : off + n ≤ s.cfg.memorySz.toNat) :
    (s.mem.readLE off n).toNat = leNat s off n := by
  induction n generalizing off with
  | zero => rfl
  | succ n ih =>
    have hget : s.mem.get off = s.getByte off := (if_pos (by omega)).symm
    have hbyte := (s.getByte off).isLt
    have hrest : leNat s (off + 1) n < 256 ^ 7 :=
      (leNat_lt s (off + 1) n).trans_le (Nat.pow_le_pow_right (by decide) (by omega))
    rw [Memory.readLE, leNat, hget, BitVec.toNat_or, BitVec.toNat_shiftLeft, ih (by omega) (by omega),
      BitVec.toNat_setWidth, Nat.mod_eq_of_lt (by omega), Nat.mod_eq_of_lt (by rw [Nat.shiftLeft_eq]; omega),
      Nat.or_comm, ← Nat.shiftLeft_add_eq_or_of_lt hbyte, Nat.shiftLeft_eq]
    omega

/-- Where each byte is a digit of a number in base 256, the bytes spell its low end. -/
theorem leNat_eq_mod {s : State} {off n m : Nat} (h : ∀ j, j < n → (s.getByte (off + j)).toNat = m / 256 ^ j % 256) :
    leNat s off n = m % 256 ^ n := by
  induction n generalizing off m with
  | zero => rw [leNat, pow_zero, Nat.mod_one]
  | succ n ih =>
    have hlow : (s.getByte off).toNat = m % 256 := by simpa using h 0 n.succ_pos
    have hrest : leNat s (off + 1) n = m / 256 % 256 ^ n := ih fun j hj => by
      rw [Nat.div_div_eq_div_mul, ← pow_succ', ← h (j + 1) (by omega)]
      congr 2
      omega
    rw [leNat, hlow, hrest, pow_succ', Nat.mod_mul]

/-! The address of an access that passes the data check. -/

theorem toNat_wrap64_ea {s : State} {base n : Nat} {offset : Int} (hw : InDataWindow s.cfg (ea s base offset) n) :
    (wrap64 (ea s base offset)).toNat = (ea s base offset).toNat := by
  have := hw.toNat
  omega

theorem offsetOf_wrap64_ea {s : State} {base n : Nat} {offset : Int} (hw : InDataWindow s.cfg (ea s base offset) n) :
    s.offsetOf (wrap64 (ea s base offset)) = eaOffset s base offset := by
  have := hw.toNat
  unfold State.offsetOf eaOffset
  omega

theorem eaOffset_add_le {s : State} {base n : Nat} {offset : Int} (hw : InDataWindow s.cfg (ea s base offset) n) :
    eaOffset s base offset + n ≤ s.cfg.memorySz.toNat := by
  rw [← offsetOf_wrap64_ea hw]
  exact offset_inSize hw

/-! The cache access. -/

theorem exists_line_iff_cacheHit (s : State) (a : Word) :
    (∃ l, s.lines[s.setOf a]? = some l ∧ l.valid = true ∧ l.tag.toNat = blockOf a) ↔ s.cacheHit a = true := by
  rw [cacheHit_iff]
  constructor
  · rintro ⟨⟨valid, tag⟩, hl, rfl, htag⟩
    rw [hl, lineOf, ← htag, BitVec.ofNat_toNat, BitVec.setWidth_eq]
  · exact fun hl => ⟨lineOf a, hl, rfl, toNat_tag_lineOf a⟩

/-- A state with the counters, the lines and the port that a cache access leaves (20_memory.md R84 to R87). -/
theorem cacheTouched_of_cacheAccess {s t : State} {a : Word} (haccesses : t.accesses = (s.cacheAccess a).accesses)
    (hmisses : t.misses = (s.cacheAccess a).misses) (hlines : t.lines = (s.cacheAccess a).lines)
    (htrace : t.trace = (s.cacheAccess a).trace) : CacheTouched s t a.toNat := by
  rw [cacheAccess_accesses] at haccesses
  rw [cacheAccess_misses] at hmisses
  rw [cacheAccess_lines] at hlines
  rw [cacheAccess_trace] at htrace
  refine ⟨haccesses, fun hhit => ?hit, fun hmiss => ?miss⟩
  case hit =>
    have hhit := (exists_line_iff_cacheHit s a).mp hhit
    rw [if_pos hhit] at hmisses hlines htrace
    exact ⟨hlines, hmisses, htrace⟩
  case miss =>
    have hmiss := mt (exists_line_iff_cacheHit s a).mpr hmiss
    rw [if_neg hmiss] at hmisses hlines htrace
    refine ⟨hmisses, htrace, fun k => ?_⟩
    rw [hlines]
    by_cases hlt : k < s.lines.length
    · by_cases hset : s.setOf a = k
      · subst hset
        exact (List.getElem?_set_self hlt).trans (if_pos ⟨rfl, hlt⟩).symm
      · exact (List.getElem?_set_ne hset).trans (if_neg fun h => hset h.1.symm).symm
    · rw [if_neg fun h => hlt h.2, List.getElem?_eq_none (by simpa using hlt), List.getElem?_eq_none (by simpa using hlt)]

/-! Loads. -/

theorem loadOp_completes {z : AccessSize} {ext : Word → Word} {base rd : Nat} {offset : Int} {s : State}
    (hw : InDataWindow s.cfg (ea s base offset) z.bytes) :
    loadOp z ext base rd offset s = .next (((s.cacheAccess (wrap64 (ea s base offset))).writeReg rd
      (ext (s.memRead (wrap64 (ea s base offset)) z))).setPc s.pcNext) := by
  rw [← memRead_congr (cacheAccess_mem s (wrap64 (ea s base offset))) (cacheAccess_cfg s (wrap64 (ea s base offset)))]
  exact memoryOp_completes _ hw

theorem loads_of_loadOp {base rd n : Nat} {offset : Int} {s : State} (hw : InDataWindow s.cfg (ea s base offset) n) (v : Word) :
    Loads s (((s.cacheAccess (wrap64 (ea s base offset))).writeReg rd v).setPc s.pcNext) base rd offset v := by
  refine ⟨fun k => ?regs, pcNext_eq_wrap64 s, ⟨?mem, fun off => ?bytes⟩, ?control, ?dump, ?cache⟩
  case regs =>
    rw [readReg_setPc, readReg_writeReg, readReg_cacheAccess]
    refine if_congr (and_congr_right fun hk => ?_) rfl rfl
    rw [hk]
  case mem => simp
  case bytes => simp
  case control => simp [SameControl]
  case dump => simp
  case cache =>
    rw [← toNat_wrap64_ea hw]
    apply cacheTouched_of_cacheAccess <;> simp

/-- A load completes inside the window with its extension of the number read, and raises outside. -/
theorem loadCompletes_of_loadOp {i : Nat → Nat → Int → Instr} {z : AccessSize} {ext : Word → Word} {P : Word → Nat → Prop}
    (hexec : ∀ base rd offset s, exec (i base rd offset) s = loadOp z ext base rd offset s)
    (hP : ∀ v : Word, v.toNat < 256 ^ z.bytes → P (ext v) v.toNat) : LoadCompletes i z.bytes P := by
  intro s base rd offset
  refine ⟨fun hw => ⟨_, _, (hexec _ _ _ _).trans (loadOp_completes hw), loads_of_loadOp hw _, ?_⟩,
    fun hw => (hexec _ _ _ _).trans (memoryOp_raises _ hw)⟩
  have hbytes : z.bytes ≤ 8 := by cases z <;> decide
  have hvalue : (s.memRead (wrap64 (ea s base offset)) z).toNat = leNat s (eaOffset s base offset) z.bytes := by
    rw [State.memRead, offsetOf_wrap64_ea hw]
    exact toNat_readLE hbytes (eaOffset_add_le hw)
  rw [← hvalue]
  refine hP _ ?_
  rw [hvalue]
  exact leNat_lt s _ _

theorem toInt_sextLow {w : Nat} (hw : w ≤ 64) (v : Word) : (sextLow w v).toInt = Int.bmod v.toNat (2 ^ w) := by
  rw [sextLow, BitVec.toInt_signExtend_of_le hw, BitVec.toInt_setWidth]

theorem toNat_zextLow {w : Nat} (hw : w ≤ 64) {v : Word} (h : v.toNat < 2 ^ w) : (zextLow w v).toNat = v.toNat := by
  rw [zextLow, BitVec.toNat_setWidth_of_le hw, BitVec.toNat_setWidth, Nat.mod_eq_of_lt h]

/-- Settles O14: the three loads that extend the sign. -/
theorem signedLoadResults : Obligations.SignedLoadResults :=
  ⟨loadCompletes_of_loadOp (z := .byte) (fun _ _ _ _ => rfl) fun v _ => toInt_sextLow (by decide) v,
    loadCompletes_of_loadOp (z := .half) (fun _ _ _ _ => rfl) fun v _ => toInt_sextLow (by decide) v,
    loadCompletes_of_loadOp (z := .word) (fun _ _ _ _ => rfl) fun v _ => toInt_sextLow (by decide) v⟩

/-- Settles O15: the doubleword needs no extension, and a zero extension keeps the number. -/
theorem unsignedLoadResults : Obligations.UnsignedLoadResults :=
  ⟨loadCompletes_of_loadOp (z := .double) (fun _ _ _ _ => rfl) fun _ _ => rfl,
    loadCompletes_of_loadOp (z := .byte) (fun _ _ _ _ => rfl) fun _ h => toNat_zextLow (by decide) h,
    loadCompletes_of_loadOp (z := .half) (fun _ _ _ _ => rfl) fun _ h => toNat_zextLow (by decide) h,
    loadCompletes_of_loadOp (z := .word) (fun _ _ _ _ => rfl) fun _ h => toNat_zextLow (by decide) h⟩

/-! Stores. -/

/-- A byte of the memory after a store inside it. -/
theorem getByte_memWrite {s : State} (hm : s.mem.wf = true) {a : Word} {z : AccessSize} (v : Word)
    (hfit : s.offsetOf a + z.bytes ≤ s.cfg.memorySz.toNat) (off : Nat) :
    (s.memWrite a z v).getByte off =
      if s.offsetOf a ≤ off ∧ off < s.offsetOf a + z.bytes then (v >>> (8 * (off - s.offsetOf a))).setWidth 8
      else s.getByte off := by
  unfold State.getByte
  rw [memWrite_cfg, memWrite_mem, Memory.get_writeLE hm]
  by_cases hin : s.offsetOf a ≤ off ∧ off < s.offsetOf a + z.bytes
  · rw [if_pos hin, if_pos hin, if_pos (by omega)]
  · rw [if_neg hin, if_neg hin]

/-- Byte `j` of a word as a number. -/
theorem toNat_byte (v : Word) (j : Nat) : ((v >>> (8 * j)).setWidth 8).toNat = v.toNat / 256 ^ j % 256 := by
  rw [BitVec.toNat_setWidth, BitVec.toNat_ushiftRight, Nat.shiftRight_eq_div_pow, pow_mul]
  rfl

theorem stores_of_storeOp {z : AccessSize} {base rs2 : Nat} {offset : Int} {s : State} (hm : s.mem.wf = true)
    (hw : InDataWindow s.cfg (ea s base offset) z.bytes) :
    Stores s (((s.cacheAccess (wrap64 (ea s base offset))).memWrite (wrap64 (ea s base offset)) z (s.readReg rs2)).setPc
      s.pcNext) base rs2 offset z.bytes := by
  have hoff : (s.cacheAccess (wrap64 (ea s base offset))).offsetOf (wrap64 (ea s base offset)) = eaOffset s base offset := by
    rw [State.offsetOf, cacheAccess_cfg]
    exact offsetOf_wrap64_ea hw
  have hfit := eaOffset_add_le hw
  have hbyte := getByte_memWrite (s := s.cacheAccess (wrap64 (ea s base offset))) (a := wrap64 (ea s base offset)) (z := z)
    (by rwa [cacheAccess_mem]) (s.readReg rs2) (by rwa [hoff, cacheAccess_cfg])
  simp only [hoff, getByte_cacheAccess] at hbyte
  refine ⟨?regs, pcNext_eq_wrap64 s, ?control, ?dump, ?cache, fun j hj => ?stored, fun off hoff => ?others⟩
  case regs => simp [SameRegs]
  case control => simp [SameControl]
  case dump => simp
  case cache =>
    rw [← toNat_wrap64_ea hw]
    apply cacheTouched_of_cacheAccess <;> simp
  case stored =>
    rw [getByte_setPc, hbyte, if_pos (by omega), Nat.add_sub_cancel_left, toNat_byte]
    push_cast
    rfl
  case others => rw [getByte_setPc, hbyte, if_neg hoff]

/-- A store completes inside the window of a canonical memory, and raises outside. -/
theorem storeCompletes_of_storeOp {i : Nat → Nat → Int → Instr} {z : AccessSize}
    (hexec : ∀ base rs2 offset s, exec (i base rs2 offset) s = storeOp z base rs2 offset s) : StoreCompletes i z.bytes :=
  fun _ _ _ _ =>
    ⟨fun hm hw => ⟨_, (hexec _ _ _ _).trans (memoryOp_completes _ hw), stores_of_storeOp hm hw⟩,
      fun hw => (hexec _ _ _ _).trans (memoryOp_raises _ hw)⟩

/-- Settles O16: the four stores, each by its width. -/
theorem storeResults : Obligations.StoreResults :=
  ⟨storeCompletes_of_storeOp (z := .byte) fun _ _ _ _ => rfl, storeCompletes_of_storeOp (z := .half) fun _ _ _ _ => rfl,
    storeCompletes_of_storeOp (z := .word) fun _ _ _ _ => rfl, storeCompletes_of_storeOp (z := .double) fun _ _ _ _ => rfl⟩

/-! A store read back. -/

/-- A load of `n` bytes reads the low digits in base 256 of the number whose digits the memory holds there. -/
theorem load_reads {i : Nat → Nat → Int → Instr} {n m base rd : Nat} {offset r : Int} {t : State}
    (hload : LoadCompletes i n fun v k => v.toNat = k) (hw : InDataWindow t.cfg (ea t base offset) n) (h1 : 1 ≤ rd)
    (h31 : rd ≤ 31) (hbytes : ∀ j, j < n → (t.getByte (eaOffset t base offset + j)).toNat = m / 256 ^ j % 256)
    (hr : ((m % 256 ^ n : Nat) : Int) = r) : Completes (i base rd offset) t fun u => uReg u rd = r := by
  obtain ⟨u, v, hexec, ⟨hregs, -⟩, hv⟩ := (hload t base rd offset).1 hw
  have hvalue : (u.readReg rd).toNat = m % 256 ^ n := by
    rw [hregs rd, if_pos ⟨rfl, h1, h31⟩, hv, leNat_eq_mod hbytes]
  exact ⟨u, hexec, (congrArg Nat.cast hvalue).trans hr⟩

/-- Settles O18: the bytes a doubleword store leaves are the digits that each load reads. -/
theorem loadSeesStore : Obligations.LoadSeesStore := by
  intro s base rs2 rd offset hm hw h1 h31
  obtain ⟨-, -, -, hsd⟩ := storeResults
  obtain ⟨hld, hlbu, hlhu, hlwu⟩ := unsignedLoadResults
  obtain ⟨t, hexec, hregs, -, ⟨-, hcfg, -⟩, -, -, hbytes, -⟩ := (hsd s base rs2 offset).1 hm hw
  have hea : ∀ o, ea t base o = ea s base o := fun o => by rw [ea, uReg, hregs base]; rfl
  have hoff : ∀ o, eaOffset t base o = eaOffset s base o := fun o => by rw [eaOffset, hea, hcfg]; rfl
  have hreg : uReg s rs2 = (s.readReg rs2).toNat := rfl
  have hdigit : ∀ j, j < 8 → (t.getByte (eaOffset t base offset + j)).toNat = (s.readReg rs2).toNat / 256 ^ j % 256 := by
    intro j hj
    have hbyte := hbytes j hj
    rw [hreg] at hbyte
    rw [hoff]
    exact_mod_cast hbyte
  have hlt : (s.readReg rs2).toNat < 256 ^ 8 := (s.readReg rs2).isLt
  obtain ⟨h0, htop, hsum, hlo, hhi⟩ := hw
  have hwindow : ∀ n ≤ 8, InDataWindow t.cfg (ea t base offset) n := by
    intro n hn
    rw [hea, hcfg]
    exact ⟨h0, by omega, hsum, hlo, by omega⟩
  refine ⟨t, hexec, ?ld, ?lwu, ?lhu, ?lbu, ?lwuHigh⟩
  case ld =>
    refine load_reads hld (hwindow 8 (by decide)) h1 h31 hdigit ?_
    rw [Nat.mod_eq_of_lt hlt]
    rfl
  case lwu => exact load_reads hlwu (hwindow 4 (by decide)) h1 h31 (fun j hj => hdigit j (by omega)) (Int.natCast_mod _ _)
  case lhu => exact load_reads hlhu (hwindow 2 (by decide)) h1 h31 (fun j hj => hdigit j (by omega)) (Int.natCast_mod _ _)
  case lbu => exact load_reads hlbu (hwindow 1 (by decide)) h1 h31 (fun j hj => hdigit j (by omega)) (Int.natCast_mod _ _)
  case lwuHigh =>
    have hea4 : ea s base (offset + 4) = ea s base offset + 4 := (Int.add_assoc _ _ _).symm
    have hoff4 : eaOffset s base (offset + 4) = eaOffset s base offset + 4 := by
      unfold eaOffset
      rw [hea4]
      omega
    refine load_reads hlwu (m := (s.readReg rs2).toNat / 256 ^ 4) ?_ h1 h31 (fun j hj => ?_) ?_
    · rw [hea, hcfg, hea4]
      exact ⟨by omega, by omega, hsum, by omega, by omega⟩
    · rw [Nat.div_div_eq_div_mul, ← pow_add, ← hdigit (4 + j) (by omega), hoff, hoff, hoff4, Nat.add_assoc]
    · rw [Nat.mod_eq_of_lt (by omega), hreg]
      exact Int.natCast_div _ _

end Sys2Proof.Machine
end

section
/-! The step (40_dispatch.md R150 to R163, 60_exceptions.md R400 to R407): what it fetches, in the spec's own terms, what it raises, and how much of the state it touches. -/

namespace Sys2Proof.Machine

open Sys2Proof.Claims

/-! Fetch in the spec's own terms. -/

theorem pcInWindow_iff (s : State) : s.pcInWindow = true ↔ PcInWindow s :=
  decide_eq_true_iff

theorem pcMisaligned_iff (s : State) : s.pcMisaligned = true ↔ s.cfg.fetchMisaligned = .fault ∧ pcOffset s % 4 ≠ 0 :=
  decide_eq_true_iff.trans and_comm

theorem pcMisaligned_eq_false_iff (s : State) :
    s.pcMisaligned = false ↔ pcOffset s % 4 = 0 ∨ s.cfg.fetchMisaligned = .truncate := by
  rw [← Bool.not_eq_true, pcMisaligned_iff]
  cases s.cfg.fetchMisaligned <;> simp

theorem fetch_ok_iff_fetches (s : State) (r : Record) : fetch s = .ok r ↔ Fetches s r := by
  rw [fetch_ok_iff, pcInWindow_iff, pcMisaligned_eq_false_iff]
  rfl

theorem fetchInstr_of_fetches {s : State} {r : Record} (h : Fetches s r) : fetchInstr s = r.instr := by
  unfold fetchInstr
  rw [(fetch_ok_iff_fetches s r).mpr h]

theorem fetchInstr_ok_iff (s : State) (i : Instr) : fetchInstr s = .ok i ↔ ∃ r, Fetches s r ∧ r.instr = .ok i := by
  refine ⟨fun h => ?_, fun ⟨r, hr, hi⟩ => (fetchInstr_of_fetches hr).trans hi⟩
  unfold fetchInstr at h
  split at h
  · cases h
  · next r hr => exact ⟨r, (fetch_ok_iff_fetches s r).mp hr, h⟩

/-! One step, by what the fetch gives. -/

theorem step_of_error {s : State} {c : InstructionFaultCause} (hs : s.status = .running) (h : fetchInstr s = .error c) :
    step s = .next ((s.present none).raise .instructionFault) := by
  unfold step
  simp only [hs, h]

theorem step_of_ok {s : State} {i : Instr} (hs : s.status = .running) (h : fetchInstr s = .ok i) :
    step s = exec i (s.present (some i.record)) := by
  unfold step
  simp only [hs, h]

theorem step_of_halted {s : State} {k : ExceptionKind} (h : s.status = .halted k) : step s = .fault (.halted k) := by
  unfold step
  simp only [h]

/-- Settles O28: the fetched record is an instruction's, and the step runs it. -/
theorem stepRunsFetchedInstruction : Obligations.StepRunsFetchedInstruction :=
  fun _ _ _ hs hr hi => ⟨step_of_ok hs ((fetchInstr_of_fetches hr).trans hi), (record_of_instr hi).symm⟩

/-- A running step that halts leaves the state as it was, but for the status and the ports. -/
theorem step_raises {s t : State} {k : ExceptionKind} (h : step s = .next t) (hk : t.status = .halted k) :
    ∃ r, t = (s.present r).raise k := by
  obtain ⟨hs, ⟨c, -, rfl⟩ | ⟨i, -, hexec⟩⟩ := step_next h
  · cases hk
    exact ⟨none, rfl⟩
  · exact ⟨_, exec_raises hs hexec hk⟩

/-- Settles O32: a raise writes the status, and the step has cleared the ports. -/
theorem raisingStepWritesNothing : Obligations.RaisingStepWritesNothing := by
  intro s t k h hk
  obtain ⟨r, rfl⟩ := step_raises h hk
  rfl

theorem run_of_halted {n : Nat} {s t : State} {k : ExceptionKind} (hs : s.status = .halted k)
    (h : Host.Core.run Sys2Proof.core n s = .next t) : t = s := by
  cases n with
  | zero => cases h; rfl
  | succ n =>
    obtain ⟨u, hu, -⟩ := run_succ_next.mp h
    cases (step_of_halted hs).symm.trans hu

theorem step_total {s : State} (hs : s.status = .running) : ∃ t, step s = .next t := by
  cases hi : fetchInstr s with
  | error c => exact ⟨_, step_of_error hs hi⟩
  | ok i =>
    rw [step_of_ok hs hi]
    exact exec_total i _

/-- Settles O31: every instruction answers a state, and a halted state has no step. -/
theorem runStatusTransitions : Obligations.RunStatusTransitions := by
  intro s
  refine ⟨fun c prog regInit memInit tagInit h => ?_, step_total,
    fun k hk => ⟨step_of_halted hk, fun n t hrun => run_of_halted hk hrun⟩⟩
  obtain ⟨-, rfl⟩ := (construct_ok_iff c prog regInit memInit tagInit s).mp h
  rfl

/-! InstructionFault (60_exceptions.md R401). -/

theorem instr?_eq_none_iff (t : Tag) (o : Operands) : t.instr? o = none ↔ o.format ≠ t.format := by
  have hsome : (t.instr? o).isNone = !decide (o.format = t.format) := by
    cases o <;> cases t <;> rfl
  rw [← Option.isNone_iff_eq_none, hsome]
  simp

/-- A record is no instruction's when its tag is unclaimed or its variant is not the tag's (R401 (d), (e)). -/
theorem instr_error_iff (r : Record) :
    (∃ c, r.instr = .error c) ↔ (∃ c, r.op = .other c) ∨ ∃ tag, r.op = .known tag ∧ r.operands.format ≠ tag.format := by
  unfold Record.instr
  cases hop : r.op with
  | other c => simp
  | known t =>
    cases hi : t.instr? r.operands with
    | none => simp [hi, (instr?_eq_none_iff t r.operands).mp hi]
    | some i =>
      have hformat : r.operands.format = t.format := by
        by_contra hne
        rw [(instr?_eq_none_iff t r.operands).mpr hne] at hi
        cases hi
      simp [hi, hformat]

theorem fetchInstr_error_of_not_fetches {s : State} (h : ¬ ∃ r, Fetches s r) : ∃ c, fetchInstr s = .error c := by
  cases hi : fetchInstr s with
  | error c => exact ⟨c, rfl⟩
  | ok i =>
    obtain ⟨r, hr, -⟩ := (fetchInstr_ok_iff s i).mp hi
    exact absurd ⟨r, hr⟩ h

/-- The causes of InstructionFault, in the spec's own terms. -/
theorem fetchInstr_error_iff (s : State) :
    (∃ c, fetchInstr s = .error c) ↔
      (¬ PcInWindow s ∨
       (s.cfg.fetchMisaligned = .fault ∧ pcOffset s % 4 ≠ 0) ∨
       s.prog.length ≤ pcOffset s / 4 ∨
       ∃ r, s.prog[pcOffset s / 4]? = some r ∧
         ((∃ c, r.op = .other c) ∨ ∃ tag, r.op = .known tag ∧ r.operands.format ≠ tag.format)) := by
  by_cases hf : ∃ r, Fetches s r
  · obtain ⟨r, hr⟩ := hf
    rw [fetchInstr_of_fetches hr, instr_error_iff]
    obtain ⟨hwindow, haligned, hrecord⟩ := hr
    refine ⟨fun h => .inr (.inr (.inr ⟨r, hrecord, h⟩)), ?_⟩
    rintro (hout | ⟨hfault, hodd⟩ | hbeyond | ⟨r', hr', h⟩)
    · exact absurd hwindow hout
    · rcases haligned with heven | htruncate
      · exact absurd heven hodd
      · cases htruncate.symm.trans hfault
    · cases (List.getElem?_eq_none hbeyond).symm.trans hrecord
    · cases hrecord.symm.trans hr'
      exact h
  · refine iff_of_true (fetchInstr_error_of_not_fetches hf) ?_
    by_contra hno
    simp only [not_or, not_not, not_and, not_le] at hno
    obtain ⟨hwindow, haligned, hinside, -⟩ := hno
    refine hf ⟨s.prog[pcOffset s / 4], hwindow, ?_, List.getElem?_eq_getElem hinside⟩
    cases hm : s.cfg.fetchMisaligned with
    | truncate => exact .inr rfl
    | fault => exact .inl (haligned hm)

theorem exec_no_instructionFault {i : Instr} {s t : State} (hs : s.status = .running) (h : exec i s = .next t) :
    t.status ≠ .halted .instructionFault := by
  intro hk
  rcases exceptionsOfInstructions i s t _ hs h hk with ⟨hkind, -⟩ | ⟨hkind, -⟩ | ⟨hkind, -⟩ <;> cases hkind

/-- A step raises InstructionFault only where the fetch gives no instruction. -/
theorem step_instructionFault {s t : State} (h : step s = .next t) (hk : t.status = .halted .instructionFault) :
    (∃ c, fetchInstr s = .error c) ∧ t = (s.present none).raise .instructionFault := by
  obtain ⟨hs, ⟨c, hc, ht⟩ | ⟨i, -, hexec⟩⟩ := step_next h
  · exact ⟨⟨c, hc⟩, ht⟩
  · exact absurd hk (exec_no_instructionFault (s := s.present (some i.record)) hs hexec)

/-- Settles O30: an executed instruction raises no InstructionFault, so the step does exactly when the fetch gives none. -/
theorem instructionFaultExactly : Obligations.InstructionFaultExactly := by
  intro s hs
  rw [← fetchInstr_error_iff]
  exact ⟨⟨fun ⟨_, h, hk⟩ => (step_instructionFault h hk).1, fun ⟨_, hc⟩ => ⟨_, step_of_error hs hc, rfl⟩⟩,
    fun _ h hk => (step_instructionFault h hk).2⟩

/-- The record of an unclaimed tag faults where it is fetched. -/
theorem step_of_unclaimed {s : State} {r : Record} {c : Nat} (hs : s.status = .running) (hr : Fetches s r)
    (hop : r.op = .other c) : ∃ t, step s = .next t ∧ t.status = .halted .instructionFault := by
  obtain ⟨e, he⟩ := (instr_error_iff r).mpr (.inl ⟨c, hop⟩)
  exact ⟨_, step_of_error hs ((fetchInstr_of_fetches hr).trans he), rfl⟩

/-- Settles O47: each listed kind of word is in no row, so its tag is unclaimed. -/
theorem unmatchedWordsFault : Obligations.UnmatchedWordsFault := by
  intro w s hw
  have hnone : ∀ t : Tag, w &&& t.row.mask ≠ t.row.bits := by
    rcases hw with h | h | rfl | ⟨h, hne⟩ | ⟨h, hfunct, hbit⟩
    · exact h
    · exact no_row_of_fence h
    · exact no_row_of_system rfl (by decide)
    · exact no_row_of_system h hne
    · exact no_row_of_wide_shift32 h hfunct hbit
  have hop : (recordOfWord w).op = .other w.toNat := by rw [recordOfWord_of_no_match hnone]
  exact ⟨⟨_, hop⟩, fun hs hr => step_of_unclaimed hs hr hop⟩

/-! How much a step touches (40_dispatch.md R162, 10_state.md R50, R51; 20_memory.md R91). -/

/-- An instruction changes at most one register. -/
theorem exec_changes_one {i : Instr} {s t : State} (h : exec i s = .next t) :
    ∃ rd, ∀ k, k ≠ rd → t.readReg k = s.readReg k := by
  obtain ⟨hother, -⟩ := onlyDestinationWritten i s t h
  refine ⟨(dest i).getD 0, fun k hk => hother k fun hdest => hk ?_⟩
  rw [hdest, Option.getD_some]

/-- What the counters and the trace port show of a step's cache access. -/
def AccessCounted (s t : State) : Prop :=
  (t.accesses = s.accesses ∧ t.misses = s.misses ∧ t.trace.cache = .none) ∨
  (t.accesses = s.accesses + 1 ∧ t.misses = s.misses ∧ t.trace.cache = .hit) ∨
  (t.accesses = s.accesses + 1 ∧ t.misses = s.misses + 1 ∧ t.trace.cache = .miss)

theorem cacheAccess_counted (s : State) (a : Word) : AccessCounted s (s.cacheAccess a) := by
  unfold AccessCounted
  rw [cacheAccess_accesses, cacheAccess_misses, cacheAccess_trace]
  cases s.cacheHit a <;> simp

theorem AccessEffect.counted {s t : State} {z : AccessSize} {a : Word} (h : AccessEffect s z a t) : AccessCounted s t := by
  have hcounted := cacheAccess_counted s a
  rcases h with ⟨rd, v, rfl⟩ | ⟨rs2, rfl⟩ <;> simpa [AccessCounted] using hcounted

theorem exec_counted {i : Instr} {s t : State} (h : exec i s = .next t) (hcache : s.trace.cache = .none) :
    AccessCounted s t := by
  rcases exec_next h with ⟨-, -, rd, v, p, rfl⟩ | ⟨-, hcall⟩ | ⟨-, z, base, offset, ⟨-, rfl⟩ | ⟨-, heff⟩⟩
  · exact .inl (by simp [hcache])
  · rcases hcall with ⟨-, rfl⟩ | ⟨-, rfl⟩ | ⟨-, -, rfl⟩ <;> exact .inl ⟨rfl, rfl, hcache⟩
  · exact .inl ⟨rfl, rfl, hcache⟩
  · exact heff.counted

theorem step_counted {s t : State} (h : step s = .next t) : AccessCounted s t := by
  obtain ⟨-, ⟨c, -, rfl⟩ | ⟨i, -, hexec⟩⟩ := step_next h
  · exact .inl ⟨rfl, rfl, rfl⟩
  · exact exec_counted (s := s.present (some i.record)) hexec rfl

/-- Settles O34: an instruction writes its destination and makes one access at most, and a fault neither. -/
theorem stepTouchesAtMostOnce : Obligations.StepTouchesAtMostOnce := by
  intro s t h
  refine ⟨?registers, step_counted h⟩
  obtain ⟨rd, hrd⟩ : ∃ rd, ∀ k, k ≠ rd → t.readReg k = s.readReg k := by
    obtain ⟨-, ⟨c, -, rfl⟩ | ⟨i, -, hexec⟩⟩ := step_next h
    · exact ⟨0, fun _ _ => rfl⟩
    · exact exec_changes_one (s := s.present (some i.record)) hexec
  intro j k hj hk
  exact (not_imp_comm.mp (hrd j) hj).trans (not_imp_comm.mp (hrd k) hk).symm

/-- Settles O36: a miss is counted with its access. -/
theorem missesAtMostAccesses : Obligations.MissesAtMostAccesses := by
  intro s t h hwrap hle
  have hone : (1 : Word).toNat = 1 := rfl
  rcases step_counted h with ⟨ha, hm, -⟩ | ⟨ha, hm, -⟩ | ⟨ha, hm, -⟩
  · rw [ha, hm]
    exact hle
  · rw [ha, hm, BitVec.toNat_add, hone, Nat.mod_eq_of_lt hwrap]
    omega
  · rw [ha, hm, BitVec.toNat_add, BitVec.toNat_add, hone, Nat.mod_eq_of_lt hwrap, Nat.mod_eq_of_lt (by omega)]
    omega

theorem AccessEffect.dump {s t : State} {z : AccessSize} {a : Word} (h : AccessEffect s z a t) : t.dump = s.dump := by
  rcases h with ⟨rd, v, rfl⟩ | ⟨rs2, rfl⟩ <;> simp

/-- An event comes onto the dump port from ECALL's dump alone. -/
theorem exec_dump_iff {i : Instr} {s t : State} (h : exec i s = .next t) (hdump : s.dump = none) :
    (∃ d, t.dump = some d) ↔ i = .ecall ∧ uReg s 17 = 23 := by
  have hreg : uReg s 17 = 23 ↔ s.readReg 17 = 23 := uReg_eq_iff (v := 23)
  rcases exec_next h with ⟨hi, -, rd, v, p, rfl⟩ | ⟨rfl, hcall⟩ | ⟨hmem, z, base, offset, hz⟩
  · simp [hdump, hi]
  · rcases hcall with ⟨h23, rfl⟩ | ⟨h2, rfl⟩ | ⟨h23, -, rfl⟩
    · simp [hreg, h23]
    · simp [hreg, hdump, h2]
    · simpa [hreg, hdump] using h23
  · have hi : i ≠ .ecall := by rintro rfl; cases hmem
    have hkept : t.dump = none := by
      rcases hz with ⟨-, rfl⟩ | ⟨-, heff⟩
      · exact hdump
      · rw [heff.dump, hdump]
    simp [hkept, hi]

/-- Settles O35: the step clears the port before it runs the instruction. -/
theorem dumpOnlyFromEcall : Obligations.DumpOnlyFromEcall := by
  intro s t h
  obtain ⟨-, ⟨c, hc, rfl⟩ | ⟨i, hi, hexec⟩⟩ := step_next h
  · refine iff_of_false (by simp) ?_
    rintro ⟨r, hr, hcall, -⟩
    cases hc.symm.trans ((fetchInstr_of_fetches hr).trans hcall)
  · rw [exec_dump_iff hexec rfl]
    constructor
    · rintro ⟨rfl, h23⟩
      obtain ⟨r, hr, hcall⟩ := (fetchInstr_ok_iff s .ecall).mp hi
      exact ⟨r, hr, hcall, h23⟩
    · rintro ⟨r, hr, hcall, h23⟩
      cases hi.symm.trans ((fetchInstr_of_fetches hr).trans hcall)
      exact ⟨rfl, h23⟩

/-! The presentation flags, and the load of a record. -/

/-- No operation reads or writes the presentation flags. -/
theorem withFlags_respectedByOps (a b c : Bool) : RespectedByOps fun s t => t = withFlags a b c s where
  status := by rintro s _ rfl; rfl
  fetchInstr := by rintro s _ rfl; rfl
  readReg := by rintro s _ rfl; rfl
  pc := by rintro s _ rfl; rfl
  checkData := by rintro s _ rfl; rfl
  memRead := by rintro s _ rfl; rfl
  present := by rintro s _ rfl r; rfl
  setPc := by rintro s _ rfl p; rfl
  raise := by rintro s _ rfl k; rfl
  presentDump := by rintro s _ rfl; rfl
  writeReg := by rintro s _ rfl rd v; unfold State.writeReg; split <;> rfl
  memWrite := by rintro s _ rfl a z v; rfl
  cacheAccess := by
    rintro s _ rfl addr
    have hhit : (withFlags a b c s).cacheHit addr = s.cacheHit addr := rfl
    unfold State.cacheAccess
    rw [hhit]
    split <;> rfl

/-- Settles O43: a step is made of operations that leave the flags alone. -/
theorem presentationFlagsInert : Obligations.PresentationFlagsInert :=
  fun _ a b c => (withFlags_respectedByOps a b c).step rfl

theorem getElem?_putRecord (prog : List Record) (k : Nat) (r : Record) : (putRecord prog k r)[k]? = some r := by
  have hlength : (prog.take k ++ List.replicate (k - prog.length) (⟨.other 0, .noOperands⟩ : Record)).length = k := by
    rw [List.length_append, List.length_take, List.length_replicate]
    omega
  rw [putRecord, List.getElem?_append_right hlength.le, hlength, Nat.sub_self, List.getElem?_cons_zero]

/-- The load makes the state running, and its pc one that a fetch accepts. -/
theorem fetchable_fetches (s : State) :
    s.fetchable.status = .running ∧ PcInWindow s.fetchable ∧
      (pcOffset s.fetchable % 4 = 0 ∨ s.fetchable.cfg.fetchMisaligned = .truncate) := by
  unfold State.fetchable
  split
  · next hok =>
    rw [Bool.and_eq_true, Bool.not_eq_true'] at hok
    exact ⟨rfl, (pcInWindow_iff s).mp hok.1, (pcMisaligned_eq_false_iff s).mp hok.2⟩
  · split
    · next hwindow =>
      exact ⟨rfl, ⟨le_rfl, hwindow⟩, .inl (by simp [pcOffset])⟩
    · refine ⟨rfl, ⟨le_rfl, ?_⟩, .inl (by simp [pcOffset])⟩
      split
      · exact Nat.zero_lt_succ 3
      · next hne => exact Nat.pos_of_ne_zero fun h0 => hne (BitVec.eq_of_toNat_eq h0)

theorem placeRecord_fetches (s : State) (r : Record) : (s.placeRecord r).status = .running ∧ Fetches (s.placeRecord r) r := by
  obtain ⟨hs, hwindow, haligned⟩ := fetchable_fetches s
  exact ⟨hs, hwindow, haligned, getElem?_putRecord _ _ _⟩

/-- Settles O29: the load puts the word's record where the next step fetches, in a running state. -/
theorem fetchWordIsNextStep : Obligations.FetchWordIsNextStep := by
  intro s nbits w i h
  obtain ⟨hs, hr⟩ := placeRecord_fetches s (recordOfWord (tableWord nbits w))
  have hi : (recordOfWord (tableWord nbits w)).instr = .ok i := by
    unfold decodeTableWord decodeWord at h
    cases hd : (recordOfWord (tableWord nbits w)).instr with
    | error c => rw [hd] at h; cases h
    | ok i' => rw [hd] at h; cases h; rfl
  exact (stepRunsFetchedInstruction _ _ _ hs hr hi).1

end Sys2Proof.Machine
end
